-- ==== Sys2Proof/Word.lean ====
section
/-! DEFINITION. The data units of the block: bytes and the two wider wire fields (spec 00_scope.md R12, 30_encoding.md R91). -/

namespace Sys2Proof

/-- A byte: an unsigned 8-bit value, the unit of the input, of every frame and of every storage space (R12, R60). -/
abbrev Byte := BitVec 8

/-- A two-byte unsigned wire field: `seqNum`, `totalPackets` (R91). -/
abbrev Half := BitVec 16

/-- A four-byte unsigned wire field: `fileSize`, and `declared_size` (R91, R41). -/
abbrev Quad := BitVec 32

end Sys2Proof
end

