-- ==== Sys2Proof/Config.lean ====
section
/-! DEFINITION. The parameter record `cfg` of the block (spec 00_scope.md R9, R10), the values this hardware takes, and the free
values of the port layer (20_memory.md R84). -/

namespace Sys2Proof

/-- `OVERFLOW_BYTE_POLICY` (R9, R134): what becomes of the byte that arrives with the scratch buffer full. -/
inductive OverflowPolicy where
  | drop
  | reexamine
deriving DecidableEq, Repr

/-- The parameter record `cfg` (R9). It is fixed for the life of the block and is no part of the state (R48). -/
structure Cfg where
  /-- `HEADER`: the first byte of every frame. -/
  header : Byte
  /-- `CMD_FILE_START`. -/
  cmdFileStart : Byte
  /-- `CMD_FILE_DATA`. -/
  cmdFileData : Byte
  /-- `CMD_FILE_END`. -/
  cmdFileEnd : Byte
  /-- `CMD_ACK`. -/
  cmdAck : Byte
  /-- `CMD_NACK`. -/
  cmdNack : Byte
  /-- `CMD_READY`. -/
  cmdReady : Byte
  /-- `MAX_NAME`: filename capacity in bytes, the terminator included. -/
  maxName : Nat
  /-- `MAX_FRAME`: capacity of the scratch buffer in bytes. -/
  maxFrame : Nat
  /-- `MAX_FILE`: capacity of the receive buffer in bytes, and the largest declared size. -/
  maxFile : Nat
  /-- `MAX_PAYLOAD`: largest payload of a packet, and the stride of a packet slot. -/
  maxPayload : Nat
  /-- `MIN_START`: shortest FILE_START. -/
  minStart : Nat
  /-- `MIN_DATA`: shortest FILE_DATA. -/
  minData : Nat
  /-- `MIN_END`: shortest FILE_END. -/
  minEnd : Nat
  /-- `COUNT_WIDTH`: width in bits of the packet counters. -/
  countWidth : Nat
  /-- `OVERFLOW_BYTE_POLICY`. -/
  overflowPolicy : OverflowPolicy
  /-- `WRITE_BEFORE_VERIFY`: FILE_DATA copies its payload before its checksum check. -/
  writeBeforeVerify : Bool
deriving DecidableEq, Repr

/-- The constraints of R10. The rules of the spec are claimed for a `cfg` that meets them.
DEDUCED, safe (log 9): the six command bytes are the ones held distinct; `HEADER` is not among them. -/
def Cfg.valid (c : Cfg) : Bool := decide (
  [c.cmdFileStart, c.cmdFileData, c.cmdFileEnd, c.cmdAck, c.cmdNack, c.cmdReady].Nodup ∧
  1 ≤ c.maxName ∧
  c.minStart ≤ c.maxFrame ∧ c.minData ≤ c.maxFrame ∧ c.minEnd ≤ c.maxFrame ∧
  1 ≤ c.maxPayload ∧
  8 ≤ c.minStart ∧ 6 ≤ c.minData ∧ 5 ≤ c.minEnd ∧
  16 ≤ c.countWidth)

/-- The values this hardware takes (R9's value column). UNVERIFIED, unsafe (log 8): the source's literals were never
audited against the repository's code (R4, N16). -/
def Cfg.device : Cfg where
  header := 0x81
  cmdFileStart := 0x90
  cmdFileData := 0x91
  cmdFileEnd := 0x92
  cmdAck := 0x93
  cmdNack := 0x94
  cmdReady := 0x95
  maxName := 64
  maxFrame := 256
  maxFile := 10240
  maxPayload := 256
  minStart := 8
  minData := 6
  minEnd := 5
  countWidth := 16
  overflowPolicy := .drop
  writeBeforeVerify := true

/-- Free value (log 7): what `diag_info<index>` carries for event number `k`, where the event has no such `info` word (R84). -/
opaque Config.freeDiagInfo (k index : Nat) : Quad

/-- Free value (log 7): what `st_rd_data` carries for event number `k` at an address past the stored data (R84). -/
opaque Config.freeStoreRead (k addr : Nat) : Byte

end Sys2Proof
end

