-- ==== Sys2Proof/Syntax.lean ====
section
/-! DEFINITION. The block's instruction set: one constructor for each frame type of spec/opcode_table.json (00_scope.md R2,
30_encoding.md R92 to R95). -/

namespace Sys2Proof

/-- A frame, as the fields its layout gives it. The length fields `filenameLen` and `dataLen` are the lengths of the lists.
Every frame carries its trailing checksum byte as received or written, right or wrong (R90, R103). -/
inductive Instr where
  /-- FILE_START (R92, R161): `filenameLen`, the filename, `fileSize`, the checksum byte. Received. -/
  | fileStart (filename : List Byte) (fileSize : Quad) (checksum : Byte)
  /-- FILE_DATA (R93, R170): `seqNum`, `dataLen`, the data, the checksum byte. Received. -/
  | fileData (seqNum : Half) (data : List Byte) (checksum : Byte)
  /-- FILE_END (R94, R180): `totalPackets`, the checksum byte. Received. -/
  | fileEnd (totalPackets : Half) (checksum : Byte)
  /-- ACK (R95, R211). Sent. -/
  | ack (checksum : Byte)
  /-- NACK (R95, R212). Sent. -/
  | nack (checksum : Byte)
  /-- READY (R95, R213). Sent. -/
  | ready (checksum : Byte)
deriving DecidableEq, Repr

/-- The frames the block receives and dispatches: FILE_START, FILE_DATA and FILE_END (R2, R96). The other three it sends. -/
def Instr.isCommand : Instr → Bool
  | .fileStart _ _ _ => true
  | .fileData _ _ _ => true
  | .fileEnd _ _ => true
  | .ack _ => false
  | .nack _ => false
  | .ready _ => false

end Sys2Proof
end

