-- ==== Sys2Proof/WellFormed.lean ====
section
/-! DEFINITION. When a frame is well formed: its operands fit their fields (30_encoding.md R102), and a frame the block sends
carries its right checksum (R95, 40_checksum.md R122). -/

namespace Sys2Proof

/-- The operands of a frame fit their fields (R102: a length field is one byte). A received frame may carry any checksum
byte: a wrong one is answered by its handler, it is not malformed (R103). A sent frame carries `(HEADER + command) mod 256`
(R95, R122). -/
def Instr.wellFormed (c : Cfg) : Instr → Bool
  | .fileStart filename _ _ => decide (filename.length ≤ 255)
  | .fileData _ data _ => decide (data.length ≤ 255)
  | .fileEnd _ _ => true
  | .ack checksum => checksum == c.header + c.cmdAck
  | .nack checksum => checksum == c.header + c.cmdNack
  | .ready checksum => checksum == c.header + c.cmdReady

end Sys2Proof
end

