-- ==== Sys2Proof/Decode.lean ====
section
/-! DEFINITION. Frame layouts: the byte-order helpers, the length decoder, the frame decoder and the encoder
(30_encoding.md R90 to R104), and the reading of a word of spec/opcode_table.json. -/

namespace Sys2Proof

/-- `F[i]` (R13). Every rule reads positions the frame has; another position reads as zero. -/
def byteAt (F : List Byte) (i : Nat) : Byte := F.getD i 0

/-- `F[i .. i+n-1]` (R13): the `n` bytes from position `i`. -/
def slice (F : List Byte) (i n : Nat) : List Byte := (F.drop i).take n

/-- `BE16(F, i)` (R13, R91). -/
def be16 (F : List Byte) (i : Nat) : Nat :=
  (byteAt F i).toNat * 256 + (byteAt F (i + 1)).toNat

/-- `BE32(F, i)` (R13, R91). -/
def be32 (F : List Byte) (i : Nat) : Nat :=
  (byteAt F i).toNat * 2 ^ 24 + (byteAt F (i + 1)).toNat * 2 ^ 16
    + (byteAt F (i + 2)).toNat * 2 ^ 8 + (byteAt F (i + 3)).toNat

/-- The two bytes of a 16-bit field, most significant first (R67, R102). -/
def be16Bytes (v : Half) : List Byte :=
  [BitVec.ofNat 8 (v.toNat / 256), BitVec.ofNat 8 (v.toNat % 256)]

/-- `BE32bytes(v)` (R102): the four bytes of a 32-bit field, most significant first (R67). -/
def be32Bytes (v : Quad) : List Byte :=
  [BitVec.ofNat 8 (v.toNat / 2 ^ 24 % 256), BitVec.ofNat 8 (v.toNat / 2 ^ 16 % 256),
    BitVec.ofNat 8 (v.toNat / 2 ^ 8 % 256), BitVec.ofNat 8 (v.toNat % 256)]

/-- `ExpectedLen(P, k)` of the length decoder (R97), `none` for UNDETERMINED. `k` is the length of `P`. -/
def expectedLen (c : Cfg) (P : List Byte) : Option Nat :=
  if P.length < 2 then none
  else if byteAt P 1 = c.cmdFileStart then
    if 3 ≤ P.length then some ((byteAt P 2).toNat + 8) else none
  else if byteAt P 1 = c.cmdFileData then
    if 5 ≤ P.length then some ((byteAt P 4).toNat + 6) else none
  else if byteAt P 1 = c.cmdFileEnd then some 5
  else none

/-- Why the decoder refuses some bytes. DESIGN CHOICE, safe (log 16): the names are the model's. -/
inductive DecodeError where
  /-- there is no byte -/
  | noByte
  /-- the first byte is not `HEADER` (R90) -/
  | badHeader (b : Byte)
  /-- the command byte has not come yet -/
  | noCommand
  /-- the command byte is none of the six codes of the command map (R96, R99) -/
  | unknownCommand (cmd : Byte)
  /-- a frame of `need` bytes or more, of which only `got` are there -/
  | truncated (got need : Nat)
deriving DecidableEq, Repr

/-- The frame `i` of `L` bytes and the bytes after it, where `F` has that many. -/
def takeFrame (F : List Byte) (L : Nat) (i : Instr) : Except DecodeError (Instr × List Byte) :=
  if F.length < L then .error (.truncated F.length L) else .ok (i, F.drop L)

/-- FILE_START's fields (R92). -/
def decodeFileStart (F : List Byte) : Except DecodeError (Instr × List Byte) :=
  if F.length < 3 then .error (.truncated F.length 3)
  else
    let n := (byteAt F 2).toNat
    takeFrame F (n + 8)
      (.fileStart (slice F 3 n) (BitVec.ofNat 32 (be32 F (3 + n))) (byteAt F (7 + n)))

/-- FILE_DATA's fields (R93). -/
def decodeFileData (F : List Byte) : Except DecodeError (Instr × List Byte) :=
  if F.length < 5 then .error (.truncated F.length 5)
  else
    let d := (byteAt F 4).toNat
    takeFrame F (d + 6) (.fileData (BitVec.ofNat 16 (be16 F 2)) (slice F 5 d) (byteAt F (5 + d)))

/-- FILE_END's fields (R94). -/
def decodeFileEnd (F : List Byte) : Except DecodeError (Instr × List Byte) :=
  takeFrame F 5 (.fileEnd (BitVec.ofNat 16 (be16 F 2)) (byteAt F 4))

/-- The frame at the head of some bytes, by the command map (R96), and the bytes after it. Total on any bytes; the decoder
knows the frames of both directions, while the assembler completes only the received ones (R97, R99). -/
def decodeWith (c : Cfg) (F : List Byte) : Except DecodeError (Instr × List Byte) :=
  if F.length = 0 then .error .noByte
  else if byteAt F 0 ≠ c.header then .error (.badHeader (byteAt F 0))
  else if F.length < 2 then .error .noCommand
  else if byteAt F 1 = c.cmdFileStart then decodeFileStart F
  else if byteAt F 1 = c.cmdFileData then decodeFileData F
  else if byteAt F 1 = c.cmdFileEnd then decodeFileEnd F
  else if byteAt F 1 = c.cmdAck then takeFrame F 3 (.ack (byteAt F 2))
  else if byteAt F 1 = c.cmdNack then takeFrame F 3 (.nack (byteAt F 2))
  else if byteAt F 1 = c.cmdReady then takeFrame F 3 (.ready (byteAt F 2))
  else .error (.unknownCommand (byteAt F 1))

/-- The decoder at this hardware's values. -/
def decode (F : List Byte) : Except DecodeError (Instr × List Byte) := decodeWith Cfg.device F

/-- All of a frame but its checksum byte: header, command and payload (R92 to R95, R102). -/
def encodeBody (c : Cfg) : Instr → List Byte
  | .fileStart filename fileSize _ =>
      [c.header, c.cmdFileStart, BitVec.ofNat 8 filename.length] ++ filename ++ be32Bytes fileSize
  | .fileData seqNum data _ =>
      [c.header, c.cmdFileData] ++ be16Bytes seqNum ++ [BitVec.ofNat 8 data.length] ++ data
  | .fileEnd totalPackets _ => [c.header, c.cmdFileEnd] ++ be16Bytes totalPackets
  | .ack _ => [c.header, c.cmdAck]
  | .nack _ => [c.header, c.cmdNack]
  | .ready _ => [c.header, c.cmdReady]

/-- The checksum byte a frame carries. -/
def checksumField : Instr → Byte
  | .fileStart _ _ checksum => checksum
  | .fileData _ _ checksum => checksum
  | .fileEnd _ checksum => checksum
  | .ack checksum => checksum
  | .nack checksum => checksum
  | .ready checksum => checksum

/-- The bytes of a frame, position 0 first (R90, R102). -/
def encodeWith (c : Cfg) (i : Instr) : List Byte := encodeBody c i ++ [checksumField i]

/-- The encoder at this hardware's values. -/
def encode (i : Instr) : List Byte := encodeWith Cfg.device i

/-- The length in bytes of a frame, by its layout (R92 to R95). -/
def layoutLength : Instr → Nat
  | .fileStart filename _ _ => filename.length + 8
  | .fileData _ data _ => data.length + 6
  | .fileEnd _ _ => 5
  | .ack _ => 3
  | .nack _ => 3
  | .ready _ => 3

/-- The most bytes a well-formed frame has: a FILE_START with `filenameLen` 255 (R92). -/
def longestFrame : Nat := 263

/-- Byte `k` of a frame whose bits are `w`, as spec/opcode_table.json numbers them: its 16-bit words are `F[0]*256 + F[1]`,
so the even byte is the high byte of its word. DEDUCED, safe (log 14). -/
def tableByte (w k : Nat) : Byte :=
  BitVec.ofNat 8 (w / 2 ^ (16 * (k / 2) + (if k % 2 = 0 then 8 else 0)))

/-- The bytes of a frame whose first `nbits` bits are `w` and whose further bits are zero. -/
def tableBytes (nbits w : Nat) : List Byte :=
  (List.range longestFrame).map (tableByte (w % 2 ^ nbits))

/-- The instruction the decoder reads from a word of the opcode table. -/
def decodeTableWord (nbits w : Nat) : Option Instr :=
  match decode (tableBytes nbits w) with
  | .ok (i, _) => some i
  | .error _ => none

/-- How many bytes of `tableBytes nbits w` make up its instruction (1 where the decoder finds none). -/
def tableLength (nbits w : Nat) : Nat :=
  match decodeTableWord nbits w with
  | some i => layoutLength i
  | none => 1

end Sys2Proof
end

