-- ==== Sys2Proof/Machine/Flags.lean ====
section
/-! DEFINITION. The checksum generator and validator (40_checksum.md R120, R121): the one value the block computes over a
frame. The block has no condition codes; its flags are the state fields `active` and `asm_state` (10_state.md R47). -/

namespace Sys2Proof.Machine

/-- `Checksum(x)` (R120): the sum of the bytes mod 256, accumulated from the left. -/
def checksum (x : List Byte) : Byte := x.foldl (· + ·) 0

/-- The checksum over all bytes of `F` but the last: `Checksum(F[0 .. L-2])` (R121). -/
def computedChecksum (F : List Byte) : Byte := checksum F.dropLast

/-- The checksum byte of a frame, `F[L-1]` for any length `L` (R121). -/
def receivedChecksum (F : List Byte) : Byte := byteAt F (F.length - 1)

/-- `ChecksumOK(F, L)` with `L` the length of `F` (R121). -/
def checksumOK (F : List Byte) : Bool := computedChecksum F == receivedChecksum F

end Sys2Proof.Machine
end

