-- ==== Sys2Proof/Machine/Operands.lean ====
section
/-! DEFINITION. The operands of the three received frames, as the handlers read them from the frame `F`
(42_commands.md R161, R170, R180; 30_encoding.md R91 to R94). -/

namespace Sys2Proof.Machine

/-- The command byte `F[1]` (R96). -/
def commandOf (F : List Byte) : Byte := byteAt F 1

/-- FILE_START's `filenameLen`, `n = F[2]` (R92). -/
def filenameLenOf (F : List Byte) : Nat := (byteAt F 2).toNat

/-- FILE_START's filename, `F[3 .. 2+n]`, taken as it is (R163). -/
def filenameOf (F : List Byte) : List Byte := slice F 3 (filenameLenOf F)

/-- FILE_START's `fileSize`, `BE32(F, 3+n)` (R163). -/
def fileSizeOf (F : List Byte) : Nat := be32 F (3 + filenameLenOf F)

/-- FILE_DATA's `seqNum`, `BE16(F, 2)` (R93). -/
def seqNumOf (F : List Byte) : Nat := be16 F 2

/-- FILE_DATA's `dataLen`, `d = F[4]` (R93). -/
def dataLenOf (F : List Byte) : Nat := (byteAt F 4).toNat

/-- FILE_DATA's payload, `F[5 .. 4+d]` (R93). -/
def dataOf (F : List Byte) : List Byte := slice F 5 (dataLenOf F)

/-- FILE_END's `totalPackets`, `BE16(F, 2)` (R94). -/
def totalPacketsOf (F : List Byte) : Nat := be16 F 2

/-- The receive-buffer address a packet goes to, `(seq - 1) * MAX_PAYLOAD` for `seq >= 1`: exact, with no wrap (R66, R174). -/
def packetOffset (c : Cfg) (seq : Nat) : Nat := (seq - 1) * c.maxPayload

/-- `ceil(size / MAX_PAYLOAD)` (R12, R165). DEDUCED (log 11): exact, not cut to `COUNT_WIDTH`. -/
def packetCount (c : Cfg) (size : Nat) : Nat := (size + c.maxPayload - 1) / c.maxPayload

end Sys2Proof.Machine
end

