-- ==== Sys2Proof/Machine/State.lean ====
section
/-! DEFINITION. The state of the block (10_state.md R30), the input it is offered and the events it has emitted
(00_scope.md R14, R15), and the reasons a step can stop. -/

namespace Sys2Proof.Machine

/-- A storage space as a list of (address, byte) cells in one canonical form: addresses strictly rising, and no cell that
holds what an unlisted address reads as (`Memory.unlisted` in Machine/Ops.lean). -/
abbrev Memory := List Host.Cell

/-- The three storage spaces of the block (R60). -/
inductive Space where
  /-- the assembler's frame buffer, `MAX_FRAME` bytes -/
  | scratch
  /-- the filename, `MAX_NAME` bytes -/
  | name
  /-- the receive buffer, `MAX_FILE` bytes -/
  | buffer
deriving DecidableEq, Repr

/-- `asm_state` (R33). -/
inductive AsmState where
  | seekingHeader
  | accumulating
deriving DecidableEq, Repr

/-- What the environment may give the block between two steps (R240): a byte, or a reset. "No byte" is no input (R80): it is
the empty queue. -/
inductive Input where
  | byte (b : Byte)
  | reset
deriving DecidableEq, Repr

/-- The kinds of response frame (R210). -/
inductive ResponseKind where
  | ack
  | nack
  | ready
deriving DecidableEq, Repr

/-- The errors and the warning of R222, in the order of their codes 1 to 16. -/
inductive ErrorCode where
  | frameOverflow
  | startTooShort
  | startNameTooLong
  | startSizeTooLarge
  | startChecksum
  | dataNoSession
  | dataTooShort
  | dataPayloadTooLong
  | dataSeqZero
  | dataOutOfBounds
  | dataChecksum
  | endNoSession
  | endTooShort
  | endChecksum
  | endCountMismatch
  | unknownCommand
deriving DecidableEq, Repr

/-- The classes of the source's error taxonomy (R222, R223). -/
inductive ErrorClass where
  | framing
  | lengthBounds
  | checksum
  | sequencing
  | capacity
  /-- `END_COUNT_MISMATCH`: a warning, not an error (R222) -/
  | warning
  /-- `UNKNOWN_COMMAND`: in no class of the taxonomy (R222) -/
  | unclassed
deriving DecidableEq, Repr

/-- An output event (R14). -/
inductive Event where
  /-- `Tx(bytes)`: one call of the transport's `transmit` -/
  | tx (bytes : List Byte)
  /-- `Store(name, data, length)`: one call of the storage sink's `store`, by value (R83) -/
  | store (name data : List Byte) (length : Nat)
  /-- `Diag(code, info)`: diagnostic only -/
  | diag (code : ErrorCode) (info : List Nat)
deriving DecidableEq, Repr

/-- Why a step stops with a fault. No state that a run reaches faults (R15, R220): a fault says that the model was put into a
state outside the invariants R37 and R46. -/
inductive Fault where
  /-- Raised by `readSpace`: a read of `n` bytes from `addr` that leaves the space (R63, I11). Safe: the spec asks for it. -/
  | readOutOfRange (space : Space) (addr n : Nat)
  /-- Raised by `memWrite` and `storeByte`: a write of `n` bytes at `addr` that leaves the space (R64, I11). Safe: the spec
  asks for it. -/
  | writeOutOfRange (space : Space) (addr n : Nat)
deriving DecidableEq, Repr

/-- Why the model gives no next state. -/
inductive Refusal where
  /-- Raised by an arm of `exec` for an instruction that has no meaning yet; no arm does. Safe. -/
  | notModelled (mnemonic : String)
  /-- Raised by `stepWith` for a `cfg` that breaks the constraints of R10, of which the spec claims nothing (I14). Safe. -/
  | invalidConfig
  /-- Raised by `portReset` for a reset while outputs are still being transferred, which the spec puts outside the model
  (R265, I15). Safe. -/
  | resetDuringOutput
deriving DecidableEq, Repr

/-- The state: the block's record of R30, and the model's own two fields for its environment (`rx`, `trace`;
DESIGN CHOICE, safe, log 2). -/
structure State where
  /-- `asm_state` (R33) -/
  asmState : AsmState
  /-- `frame_len` (R34) -/
  frameLen : Nat
  /-- `Scratch` (R35) -/
  scratch : Memory
  /-- `active` (R39) -/
  active : Bool
  /-- `Name` (R40) -/
  name : Memory
  /-- `name_len` (R40) -/
  nameLen : Nat
  /-- `declared_size` (R41) -/
  declaredSize : Quad
  /-- `expected_packet_count` (R42) -/
  expectedPacketCount : Nat
  /-- `received_packet_count` (R43) -/
  receivedPacketCount : Nat
  /-- `Buffer` (R44) -/
  buffer : Memory
  /-- the model's own: the inputs the environment has offered and the block has not taken yet, next first (R15, R80) -/
  rx : List Input
  /-- the model's own: the events emitted so far, first first (R15) -/
  trace : List Event
deriving DecidableEq, Repr

/-- The state after reset (R260). `Scratch` has no reset value in the spec; DESIGN CHOICE, unsafe (log 1): zeros. No input is
offered and no event has been emitted. -/
def State.reset : State where
  asmState := .seekingHeader
  frameLen := 0
  scratch := []
  active := false
  name := []
  nameLen := 0
  declaredSize := 0
  expectedPacketCount := 0
  receivedPacketCount := 0
  buffer := []
  rx := []
  trace := []

end Sys2Proof.Machine
end

