-- ==== Sys2Proof/Machine/Ops.lean ====
section
/-! DEFINITION. The named operations over memory and state: byte access to the three spaces (20_memory.md R60 to R65), events
(00_scope.md R14), the responder (43_responder.md R210), the error entry `raise` (60_exceptions.md R221), `SessionClear`
(10_state.md R45) and `Reset` (70_reset_and_hazards.md R261). -/

namespace Sys2Proof.Machine

/-! Memory -/

/-- What an address that a memory does not list reads as: `Buffer` and `Name` are zero at reset and after a clear (R260, R45).
For `Scratch` it is a DESIGN CHOICE, unsafe (log 1). -/
def Memory.unlisted : Byte := 0

/-- The byte at an address. -/
def Memory.read : Memory → Nat → Byte
  | [], _ => Memory.unlisted
  | (k, v) :: m, a => if k = a then v else Memory.read m a

/-- A memory that lists the cell `(a, b)` too, before the first larger address. -/
def Memory.insertCell : Memory → Nat → Byte → Memory
  | [], a, b => [(a, b)]
  | (k, v) :: m, a, b => if a < k then (a, b) :: (k, v) :: m else (k, v) :: Memory.insertCell m a b

/-- The memory with byte `b` at address `a`. The canonical form is kept. -/
def Memory.write (m : Memory) (a : Nat) (b : Byte) : Memory :=
  if b = Memory.unlisted then m.filter (fun p => p.1 != a)
  else Memory.insertCell (m.filter (fun p => p.1 != a)) a b

/-- The `n` bytes from address `a`. -/
def Memory.readBytes (m : Memory) : Nat → Nat → List Byte
  | _, 0 => []
  | a, n + 1 => m.read a :: Memory.readBytes m (a + 1) n

/-- The memory with the bytes `v` from address `a` on, written in increasing address order (R64). -/
def Memory.writeBytes (m : Memory) : Nat → List Byte → Memory
  | _, [] => m
  | a, b :: v => Memory.writeBytes (m.write a b) (a + 1) v

/-- A memory of zeros: `zeros(n)` over a whole space (R13, R65). -/
def Memory.zeros : Memory := []

/-- The canonical form: addresses strictly rising, and no cell that holds what an unlisted address reads as. -/
abbrev Memory.wf (m : Memory) : Prop :=
  m.Pairwise (fun p q => p.1 < q.1) ∧ ∀ p ∈ m, p.2 ≠ Memory.unlisted

/-- The size in bytes of a space (R60). -/
def capacity (c : Cfg) : Space → Nat
  | .scratch => c.maxFrame
  | .name => c.maxName
  | .buffer => c.maxFile

/-- The memory of a space. -/
def State.space (s : State) : Space → Memory
  | .scratch => s.scratch
  | .name => s.name
  | .buffer => s.buffer

/-- `Space[addr .. addr+n-1]`; `MemRead(addr, n)` for the receive buffer. A read that leaves the space faults (R63). -/
def readSpace (c : Cfg) (sp : Space) (addr n : Nat) (s : State) : Except Fault (List Byte) :=
  if addr + n ≤ capacity c sp then .ok ((s.space sp).readBytes addr n)
  else .error (.readOutOfRange sp addr n)

/-- `MemWrite(addr, n, v)` with `n` the length of `v`. A write that leaves the receive buffer faults (R64). -/
def memWrite (c : Cfg) (addr : Nat) (v : List Byte) (s : State) : Except Fault State :=
  if addr + v.length ≤ capacity c .buffer then .ok { s with buffer := s.buffer.writeBytes addr v }
  else .error (.writeOutOfRange .buffer addr v.length)

/-- Go on with the value of an access, or stop with its fault. -/
def orFault {α : Type} (r : Except Fault α) (k : α → Host.Outcome State Fault Refusal) :
    Host.Outcome State Fault Refusal :=
  match r with
  | .ok a => k a
  | .error f => .fault f

/-! Events and responses -/

/-- `emit E` (R13): the event goes to the end of the trace, and is never withdrawn (R73). -/
def State.emit (s : State) (e : Event) : State := { s with trace := s.trace ++ [e] }

/-- The command byte `c(k)` of a response (R210). -/
def responseCommand (c : Cfg) : ResponseKind → Byte
  | .ack => c.cmdAck
  | .nack => c.cmdNack
  | .ready => c.cmdReady

/-- The bytes of a response frame (R210): header, command, and their checksum (R122). -/
def responseFrame (c : Cfg) (k : ResponseKind) : List Byte :=
  let p := [c.header, responseCommand c k]
  p ++ [checksum p]

/-- `Respond(k)` (R210). -/
def respond (c : Cfg) (k : ResponseKind) (s : State) : State := s.emit (.tx (responseFrame c k))

/-! Errors -/

/-- The code of an error or warning (R222). -/
def ErrorCode.number : ErrorCode → Nat
  | .frameOverflow => 1
  | .startTooShort => 2
  | .startNameTooLong => 3
  | .startSizeTooLarge => 4
  | .startChecksum => 5
  | .dataNoSession => 6
  | .dataTooShort => 7
  | .dataPayloadTooLong => 8
  | .dataSeqZero => 9
  | .dataOutOfBounds => 10
  | .dataChecksum => 11
  | .endNoSession => 12
  | .endTooShort => 13
  | .endChecksum => 14
  | .endCountMismatch => 15
  | .unknownCommand => 16

/-- The class of an error (R222, R223). -/
def ErrorCode.errorClass : ErrorCode → ErrorClass
  | .frameOverflow => .framing
  | .startTooShort => .lengthBounds
  | .startNameTooLong => .lengthBounds
  | .startSizeTooLarge => .capacity
  | .startChecksum => .checksum
  | .dataNoSession => .sequencing
  | .dataTooShort => .lengthBounds
  | .dataPayloadTooLong => .lengthBounds
  | .dataSeqZero => .capacity
  | .dataOutOfBounds => .capacity
  | .dataChecksum => .checksum
  | .endNoSession => .sequencing
  | .endTooShort => .lengthBounds
  | .endChecksum => .checksum
  | .endCountMismatch => .warning
  | .unknownCommand => .unclassed

/-- The response of an error: NACK, or none for `FRAME_OVERFLOW`, `UNKNOWN_COMMAND` and the warning (R212, R222). -/
def ErrorCode.response (e : ErrorCode) : Option ResponseKind :=
  match e.errorClass with
  | .framing => none
  | .lengthBounds => some .nack
  | .checksum => some .nack
  | .sequencing => some .nack
  | .capacity => some .nack
  | .warning => none
  | .unclassed => none

/-- The response of an error, where it has one (R221). -/
def respondIfAny (c : Cfg) (k : Option ResponseKind) (s : State) : State :=
  match k with
  | some k => respond c k s
  | none => s

/-- `raise E(info)` (R221), the block's exception entry: the diagnostic, then the error's response, and no other state. The
block saves nothing and has no vector (R227), and there is no return from an error (R228): the next byte is taken as usual. -/
def raise (c : Cfg) (e : ErrorCode) (info : List Nat) (s : State) : State :=
  respondIfAny c e.response (s.emit (.diag e info))

/-! Session and reset -/

/-- `SessionClear()` (R45). -/
def sessionClear (s : State) : State :=
  { s with
    active := false
    name := Memory.zeros
    nameLen := 0
    declaredSize := 0
    expectedPacketCount := 0
    receivedPacketCount := 0
    buffer := Memory.zeros }

/-- `Reset(cfg)` applied in a state (R261): the whole of the block's state is replaced and no event is emitted. The inputs
still to come and the events already emitted are the environment's and stay. -/
def applyReset (s : State) : State := { State.reset with rx := s.rx, trace := s.trace }

/-- The environment offers more inputs, after those it has offered already (R15). -/
def State.offer (s : State) (inputs : List Input) : State := { s with rx := s.rx ++ inputs }

end Sys2Proof.Machine
end

