-- ==== Sys2Proof/Machine/FileData.lean ====
section
/-! DEFINITION. FILE_DATA: store one packet (42_commands.md R170 to R177). -/

namespace Sys2Proof.Machine

/-- The packet counter's increment, mod `2^COUNT_WIDTH` (R43, R171). -/
def countPacket (c : Cfg) (s : State) : State :=
  { s with receivedPacketCount := (s.receivedPacketCount + 1) % 2 ^ c.countWidth }

/-- The payload copy `MemWrite(offset, d, F[5 .. 4+d])`, made where `now` holds (R175). -/
def copyPayload (c : Cfg) (now : Bool) (F : List Byte) (s : State) : Except Fault State :=
  if now then memWrite c (packetOffset c (seqNumOf F)) (dataOf F) s else .ok s

/-- Steps 4 and 5 (R175, R171): the copy before the checksum check, the check, the copy after it where the parameter says so,
the count and the ACK. A mismatch undoes nothing. -/
def storePacket (c : Cfg) (F : List Byte) (s : State) : Host.Outcome State Fault Refusal :=
  orFault (copyPayload c c.writeBeforeVerify F s) fun s₁ =>
    if checksumOK F then
      orFault (copyPayload c (!c.writeBeforeVerify) F s₁) fun s₂ =>
        .next (respond c .ack (countPacket c s₂))
    else .next (raise c .dataChecksum [seqNumOf F] s₁)

/-- `DataHandler(F, L)` (R170), with `L` the length of `F`; the checks in the order of the steps (R192, R226). -/
def dataHandler (c : Cfg) (F : List Byte) (s : State) : Host.Outcome State Fault Refusal :=
  if s.active = false then .next (raise c .dataNoSession [] s)
  else if F.length < c.minData then .next (raise c .dataTooShort [F.length] s)
  else if dataLenOf F > c.maxPayload then .next (raise c .dataPayloadTooLong [dataLenOf F] s)
  else if F.length < dataLenOf F + 6 then .next (raise c .dataTooShort [F.length] s)
  else if seqNumOf F = 0 then .next (raise c .dataSeqZero [] s)
  else if packetOffset c (seqNumOf F) + dataLenOf F > c.maxFile then
    .next (raise c .dataOutOfBounds [packetOffset c (seqNumOf F), dataLenOf F] s)
  else storePacket c F s

/-- FILE_DATA (R170): its handler on its frame. -/
def execFileData (seqNum : Half) (data : List Byte) (checksum : Byte) (s : State) :
    Host.Outcome State Fault Refusal :=
  dataHandler Cfg.device (encode (.fileData seqNum data checksum)) s

end Sys2Proof.Machine
end

