-- ==== Sys2Proof/Machine/FileEnd.lean ====
section
/-! DEFINITION. FILE_END: close the session and store the file (42_commands.md R180 to R185). -/

namespace Sys2Proof.Machine

/-- Step 4 (R184): the packet counts are compared; a mismatch is a diagnostic and nothing else. -/
def warnCount (total : Nat) (s : State) : State :=
  if total = s.receivedPacketCount then s
  else s.emit (.diag .endCountMismatch [total, s.receivedPacketCount])

/-- Steps 5 and 6 (R181): `Store` with the values as they stand (R83), then ACK, then the clear. -/
def storeFile (c : Cfg) (s : State) : Host.Outcome State Fault Refusal :=
  orFault (readSpace c .name 0 s.nameLen s) fun filename =>
    orFault (readSpace c .buffer 0 s.declaredSize.toNat s) fun data =>
      .next (sessionClear (respond c .ack (s.emit (.store filename data s.declaredSize.toNat))))

/-- `EndHandler(F, L)` (R180), with `L` the length of `F`; the checks in the order of the steps (R192, R226). -/
def endHandler (c : Cfg) (F : List Byte) (s : State) : Host.Outcome State Fault Refusal :=
  if s.active = false then .next (raise c .endNoSession [] s)
  else if F.length < c.minEnd then .next (raise c .endTooShort [F.length] s)
  else if checksumOK F = false then
    .next (raise c .endChecksum [(receivedChecksum F).toNat, (computedChecksum F).toNat] (sessionClear s))
  else storeFile c (warnCount (totalPacketsOf F) s)

/-- FILE_END (R180): its handler on its frame. -/
def execFileEnd (totalPackets : Half) (checksum : Byte) (s : State) : Host.Outcome State Fault Refusal :=
  endHandler Cfg.device (encode (.fileEnd totalPackets checksum)) s

end Sys2Proof.Machine
end

