-- ==== Sys2Proof/Machine/FileStart.lean ====
section
/-! DEFINITION. FILE_START: open a session (42_commands.md R161 to R168). -/

namespace Sys2Proof.Machine

/-- Step 4 (R165): the provisional session. `Name` is the filename followed by zeros, and the receive buffer is zeroed. -/
def openSession (c : Cfg) (filename : List Byte) (size : Nat) (s : State) : State :=
  { s with
    active := true
    name := Memory.zeros.writeBytes 0 filename
    nameLen := filename.length
    declaredSize := BitVec.ofNat 32 size
    expectedPacketCount := packetCount c size
    receivedPacketCount := 0
    buffer := Memory.zeros }

/-- Step 5 (R166): READY on a checksum match; on a mismatch the session is cleared and the frame is refused. -/
def verifyStart (c : Cfg) (F : List Byte) (s : State) : State :=
  if checksumOK F then respond c .ready s
  else raise c .startChecksum [(receivedChecksum F).toNat, (computedChecksum F).toNat] (sessionClear s)

/-- `StartHandler(F, L)` (R161), with `L` the length of `F`. The checks are made in the order of the steps (R192, R226), and
`active` is not tested (R167). -/
def startHandler (c : Cfg) (F : List Byte) (s : State) : Host.Outcome State Fault Refusal :=
  if F.length < c.minStart then .next (raise c .startTooShort [F.length] s)
  else if filenameLenOf F > c.maxName - 1 then .next (raise c .startNameTooLong [filenameLenOf F] s)
  else if F.length < filenameLenOf F + 8 then .next (raise c .startTooShort [F.length] s)
  else if fileSizeOf F > c.maxFile then .next (raise c .startSizeTooLarge [fileSizeOf F] s)
  else .next (verifyStart c F (openSession c (filenameOf F) (fileSizeOf F) s))

/-- FILE_START (R161): its handler on its frame. -/
def execFileStart (filename : List Byte) (fileSize : Quad) (checksum : Byte) (s : State) :
    Host.Outcome State Fault Refusal :=
  startHandler Cfg.device (encode (.fileStart filename fileSize checksum)) s

end Sys2Proof.Machine
end

