-- ==== Sys2Proof/Machine/Router.lean ====
section
/-! DEFINITION. The command dispatcher (42_commands.md R160, R190). -/

namespace Sys2Proof.Machine

/-- `UnknownCommand(F, L)` (R190): the diagnostic, no response. No run reaches it; it keeps `dispatch` total. -/
def unknownCommand (c : Cfg) (F : List Byte) (s : State) : Host.Outcome State Fault Refusal :=
  .next (raise c .unknownCommand [(commandOf F).toNat] s)

/-- `Dispatch(F, L)` (R160): the handler the command byte selects. -/
def dispatch (c : Cfg) (F : List Byte) (s : State) : Host.Outcome State Fault Refusal :=
  if commandOf F = c.cmdFileStart then startHandler c F s
  else if commandOf F = c.cmdFileData then dataHandler c F s
  else if commandOf F = c.cmdFileEnd then endHandler c F s
  else unknownCommand c F s

end Sys2Proof.Machine
end

