-- ==== Sys2Proof/Machine/Assembler.lean ====
section
/-! DEFINITION. The frame assembler: the per-byte step of R130 (41_frame_assembler.md), and the taking of an input
(00_scope.md R7, 20_memory.md R80). -/

namespace Sys2Proof.Machine

/-- What runs a completed frame. -/
abbrev Runner := List Byte → State → Host.Outcome State Fault Refusal

/-- R132: a header byte while seeking starts a frame. The stale bytes of `Scratch` stay. -/
def startFrame (c : Cfg) (s : State) : State :=
  { s with asmState := .accumulating, scratch := s.scratch.write 0 c.header, frameLen := 1 }

/-- The assembler returns to SEEKING_HEADER (R134, R135). -/
def releaseFrame (s : State) : State := { s with asmState := .seekingHeader, frameLen := 0 }

/-- The byte looked at in SEEKING_HEADER (R131, R132). -/
def seek (c : Cfg) (b : Byte) (s : State) : State := if b = c.header then startFrame c s else s

/-- R134: a byte that arrives with the scratch buffer full ends the partial frame, and is dropped or examined again. -/
def overflow (c : Cfg) (b : Byte) (s : State) : State :=
  let s₁ := raise c .frameOverflow [b.toNat] (releaseFrame s)
  match c.overflowPolicy with
  | .drop => s₁
  | .reexamine => seek c b s₁

/-- R133's writes: the byte goes to `Scratch[frame_len]`. A position outside `Scratch` does not exist (R60). DEDUCED, safe
(log 6). -/
def storeByte (c : Cfg) (b : Byte) (s : State) : Except Fault State :=
  if s.frameLen < capacity c .scratch then
    .ok { s with scratch := s.scratch.write s.frameLen b, frameLen := s.frameLen + 1 }
  else .error (.writeOutOfRange .scratch s.frameLen 1)

/-- The partial frame, `Scratch[0 .. frame_len-1]` (R34, R35). -/
def partialFrame (s : State) : List Byte := s.scratch.readBytes 0 s.frameLen

/-- R135: a frame that has reached its expected length is run. The assembler is released first; the order inside the step
cannot be observed (R135). DEDUCED, safe (log 5). -/
def completeFrame (c : Cfg) (run : Runner) (s : State) : Host.Outcome State Fault Refusal :=
  if expectedLen c (partialFrame s) = some s.frameLen then run (partialFrame s) (releaseFrame s)
  else .next s

/-- `Step(cfg, s, b)` (R130). -/
def ingest (c : Cfg) (run : Runner) (b : Byte) (s : State) : Host.Outcome State Fault Refusal :=
  match s.asmState with
  | .seekingHeader => .next (seek c b s)
  | .accumulating =>
    if s.frameLen = c.maxFrame then .next (overflow c b s)
    else orFault (storeByte c b s) (completeFrame c run)

/-- One step of the block: the next input is taken, a byte by `Step` (R7) and a reset by `Reset` (R261). Where there is no
input nothing happens (R80, R140). -/
def takeInput (c : Cfg) (run : Runner) (s : State) : Host.Outcome State Fault Refusal :=
  match s.rx with
  | [] => .next s
  | .reset :: rest => .next (applyReset { s with rx := rest })
  | .byte b :: rest => ingest c run b { s with rx := rest }

/-- The step of the block for any `cfg`, by the spec's own routing of frames (R130, R160). A `cfg` that breaks R10 is refused
(I14; log 15). -/
def stepWith (c : Cfg) (s : State) : Host.Outcome State Fault Refusal :=
  if c.valid then takeInput c (dispatch c) s else .refused .invalidConfig

end Sys2Proof.Machine
end

