-- ==== Sys2Proof/Machine/Responses.lean ====
section
/-! DEFINITION. The meanings of the three frames the block sends: ACK, NACK and READY (43_responder.md R210 to R213). Their
meaning is their sending (DEDUCED, safe, log 4). The handlers send them through the same operation `respond`; a response frame among the input bytes
is no instruction of the block's, and the assembler swallows it (R215, Machine/Assembler.lean). -/

namespace Sys2Proof.Machine

/-- ACK (R211): the frame is sent. The block generates the checksum itself, so the operand does not matter (R122). -/
def execAck (_checksum : Byte) (s : State) : Host.Outcome State Fault Refusal :=
  .next (respond Cfg.device .ack s)

/-- NACK (R212): the frame is sent, with the checksum the block generates (R122). -/
def execNack (_checksum : Byte) (s : State) : Host.Outcome State Fault Refusal :=
  .next (respond Cfg.device .nack s)

/-- READY (R213): the frame is sent, with the checksum the block generates (R122). -/
def execReady (_checksum : Byte) (s : State) : Host.Outcome State Fault Refusal :=
  .next (respond Cfg.device .ready s)

end Sys2Proof.Machine
end

