-- ==== Sys2Proof/Machine/Dispatch.lean ====
section
/-! DEFINITION. One arm per instruction: each calls that instruction's meaning. -/

namespace Sys2Proof.Machine

/-- The effect of an instruction. -/
def exec (i : Instr) (s : State) : Host.Outcome State Fault Refusal :=
  match i with
  | .fileStart filename fileSize checksum => Sys2Proof.Machine.execFileStart filename fileSize checksum s
  | .fileData seqNum data checksum => Sys2Proof.Machine.execFileData seqNum data checksum s
  | .fileEnd totalPackets checksum => Sys2Proof.Machine.execFileEnd totalPackets checksum s
  | .ack checksum => Sys2Proof.Machine.execAck checksum s
  | .nack checksum => Sys2Proof.Machine.execNack checksum s
  | .ready checksum => Sys2Proof.Machine.execReady checksum s

end Sys2Proof.Machine
end

