-- ==== Sys2Proof/Machine/Fetch.lean ====
section
/-! DEFINITION. How the block meets an instruction: a completed frame is decoded and run (41_frame_assembler.md R135), and
where a frame stands so that the next step completes it (R133). -/

namespace Sys2Proof.Machine

/-- A completed frame is decoded and its instruction run. Bytes that the decoder does not take as one whole command frame go the
spec's own way, by their command byte alone (R160, R190): no run completes such a frame (R37, R99). DEDUCED, safe (log 13). -/
def runFrame (F : List Byte) (s : State) : Host.Outcome State Fault Refusal :=
  match decode F with
  | .ok (i, []) => if i.isCommand then exec i s else dispatch Cfg.device F s
  | _ => dispatch Cfg.device F s

/-- The bytes `stored` as the partial frame, and the byte `b` as the next input. -/
def placeBytes (stored : List Byte) (b : Byte) (s : State) : State :=
  { s with
    asmState := if stored = [] then .seekingHeader else .accumulating
    scratch := s.scratch.writeBytes 0 stored
    frameLen := stored.length
    rx := .byte b :: s.rx }

/-- The instruction whose bits are `w`, one byte short of complete. A frame longer than `MAX_FRAME` cannot be complete in
`Scratch`: its first `MAX_FRAME` bytes are stored and the next one is offered (R98). -/
def placeFrame (nbits w : Nat) (s : State) : State :=
  let bytes := tableBytes nbits w
  let k := min (tableLength nbits w - 1) Cfg.device.maxFrame
  placeBytes (bytes.take k) (byteAt bytes k) s

end Sys2Proof.Machine
end

