-- ==== Sys2Proof/Machine/Step.lean ====
section
/-! DEFINITION. The step of this hardware, and where an instruction stands for the next step to run it. -/

namespace Sys2Proof.Machine

/-- One step of this hardware: `Step` at the values of R9, a completed frame being decoded and run by `exec`. -/
def step (s : State) : Host.Outcome State Fault Refusal := takeInput Cfg.device runFrame s

/-- `s` with the instruction whose bits are `w` one byte short of complete: all its bytes but the last are in `Scratch`, and
the last is the next input (log 3). -/
def State.withFetchWord (s : State) (nbits w : Nat) : State := placeFrame nbits w s

end Sys2Proof.Machine
end

