-- ==== Sys2Proof/Machine/Ports.lean ====
section
/-! DEFINITION. The port realisation of 20_memory.md R84 and R85, as transfers without a clock: outputs are handed over one
transfer at a time, and no input is taken before all of them are. No rule depends on it; `Machine.step` does not use it (log 12). -/

namespace Sys2Proof.Machine

/-- One transfer on the ports `tx` (a byte) or `st` (a whole `Store`, read by the sink until `st_done`) (R84). -/
inductive Transfer where
  | txByte (b : Byte)
  | store (name data : List Byte) (length : Nat)
deriving DecidableEq, Repr

/-- What the ports `tx` and `st` carry for an event. `Diag` has no back-pressure and is not waited for (R84). -/
def Event.transfers : Event → List Transfer
  | .tx bytes => bytes.map .txByte
  | .store name data length => [.store name data length]
  | .diag _ _ => []

/-- What the ports `tx` and `st` carry for a trace, in order. -/
def transfersOf (trace : List Event) : List Transfer := trace.flatMap Event.transfers

/-- The signals of port `diag`: `diag_code[4:0]`, `diag_info0[31:0]`, `diag_info1[31:0]` (R84). -/
structure DiagSignals where
  code : BitVec 5
  info0 : BitVec 32
  info1 : BitVec 32
deriving DecidableEq, Repr

/-- The signals of a `Diag` event, event number `k` of the trace. An `info` word the event does not have is a free value
(log 7): R84 states none. -/
def diagSignals (k : Nat) (code : ErrorCode) (info : List Nat) : DiagSignals where
  code := BitVec.ofNat 5 code.number
  info0 := (info[0]?.map (BitVec.ofNat 32)).getD (Config.freeDiagInfo k 0)
  info1 := (info[1]?.map (BitVec.ofNat 32)).getD (Config.freeDiagInfo k 1)

/-- The signals `st_name_len[5:0]`, `st_name[63:0][7:0]`, `st_length[13:0]` of port `st` (R84). -/
structure StoreSignals where
  nameLen : BitVec 6
  name : List Byte
  length : BitVec 14
deriving DecidableEq, Repr

/-- The signals of a `Store` event; `st_name` is the filename and zeros up to `MAX_NAME` bytes (R40). -/
def storeSignals (name : List Byte) (length : Nat) : StoreSignals where
  nameLen := BitVec.ofNat 6 name.length
  name := name ++ List.replicate (Cfg.device.maxName - name.length) 0
  length := BitVec.ofNat 14 length

/-- `st_rd_data` at `st_rd_addr`, for event number `k` of the trace: the stored byte (R84). At an address past the stored data it
is a free value (log 7): R84 states none. -/
def storeReadData (k : Nat) (data : List Byte) (addr : BitVec 14) : Byte :=
  data[addr.toNat]?.getD (Config.freeStoreRead k addr.toNat)

/-- The block behind its ports: the outputs that are still to be transferred, and those transferred so far. -/
structure PortState where
  block : State
  pending : List Transfer
  sent : List Transfer
deriving DecidableEq, Repr

/-- `rx_ready`: low while outputs of the last step have not all been transferred (R85). -/
def PortState.rxReady (p : PortState) : Bool := p.pending.isEmpty

/-- An input is offered. With `rx_ready` low it stays with the transport and nothing happens (R85); otherwise the block takes
it, and the outputs of its step wait to be transferred (R72). -/
def portTake (p : PortState) : Host.Outcome PortState Fault Refusal :=
  if p.rxReady then
    match step p.block with
    | .next t => .next { p with block := t, pending := transfersOf (t.trace.drop p.block.trace.length) }
    | .fault f => .fault f
    | .refused r => .refused r
  else .next p

/-- The environment takes the next output, in order (R81). -/
def portHandOver (p : PortState) : PortState :=
  match p.pending with
  | [] => p
  | t :: rest => { p with pending := rest, sent := p.sent ++ [t] }

/-- `rst` (R84): reset between two steps. A reset while outputs are being transferred is outside the model (R265, I15). -/
def portReset (p : PortState) : Host.Outcome PortState Fault Refusal :=
  if p.rxReady then .next { p with block := applyReset p.block } else .refused .resetDuringOutput

end Sys2Proof.Machine
end

