-- ==== Sys2Proof/Safety.lean ====
section
/-! DEFINITION. What counts as a safe run, in the terms the statements use: the invariants of 10_state.md R37 and R46, what the
block may not do (60_exceptions.md R241), and what a sender can observe (00_scope.md R14, 10_state.md R49). -/

namespace Sys2Proof.Machine

/-- The assembler invariants (R37), with `frame_len` inside `Scratch`. -/
structure AssemblerInv (c : Cfg) (s : State) : Prop where
  idle_iff : s.asmState = .seekingHeader ↔ s.frameLen = 0
  fits : s.frameLen ≤ c.maxFrame
  header_first : s.asmState = .accumulating → s.scratch.read 0 = c.header
  unfinished : s.asmState = .accumulating →
    ∀ E, expectedLen c (partialFrame s) = some E → s.frameLen < E

/-- Every session field has the value `SessionClear()` gives it (R45). -/
abbrev SessionEmpty (s : State) : Prop :=
  s.active = false ∧ s.name = Memory.zeros ∧ s.nameLen = 0 ∧ s.declaredSize = 0 ∧
  s.expectedPacketCount = 0 ∧ s.receivedPacketCount = 0 ∧ s.buffer = Memory.zeros

/-- The session invariants (R46), with the packet counter inside its width (R43). -/
structure SessionInv (c : Cfg) (s : State) : Prop where
  inactive_empty : s.active = false → SessionEmpty s
  size_fits : s.declaredSize.toNat ≤ c.maxFile
  name_fits : s.nameLen ≤ c.maxName - 1
  name_padded : ∀ a, s.nameLen ≤ a → s.name.read a = 0
  expected_eq : s.active = true → s.expectedPacketCount = packetCount c s.declaredSize.toNat
  count_fits : s.receivedPacketCount < 2 ^ c.countWidth

/-- Every memory is canonical and lists no byte outside its space (R60). -/
structure MemoryInv (c : Cfg) (s : State) : Prop where
  canonical : ∀ sp, (s.space sp).wf
  bounded : ∀ sp, ∀ p ∈ s.space sp, p.1 < capacity c sp

/-- Every `Tx` emitted is an ACK, a NACK or a READY (R214, R241). -/
def OnlyResponses (c : Cfg) (s : State) : Prop :=
  ∀ bytes, Event.tx bytes ∈ s.trace → ∃ k, bytes = responseFrame c k

/-- The invariant of the block: what is true of every state that a run from reset reaches. -/
structure Inv (c : Cfg) (s : State) : Prop where
  assembler : AssemblerInv c s
  session : SessionInv c s
  memory : MemoryInv c s
  responses : OnlyResponses c s

/-- The slot positions 250 to 255 of the receive buffer read as zero (R274). -/
def HolesEmpty (s : State) : Prop := ∀ a, 250 ≤ a % 256 → s.buffer.read a = 0

/-- Two states that a sender and the storage sink cannot tell apart: they may differ in the stale bytes of `Scratch` (R35), in
`expected_packet_count` (R42) and, while no session is active, in the other session fields (R45). -/
structure SameObservable (s t : State) : Prop where
  asmState : s.asmState = t.asmState
  partialFrame : partialFrame s = partialFrame t
  frameLen : s.frameLen = t.frameLen
  active : s.active = t.active
  session : s.active = true →
    s.name = t.name ∧ s.nameLen = t.nameLen ∧ s.declaredSize = t.declaredSize ∧
    s.receivedPacketCount = t.receivedPacketCount ∧ s.buffer = t.buffer
  rx : s.rx = t.rx
  trace : s.trace = t.trace

/-- The kind of an event, in the order one step emits them (R139): 0 for `Diag`, 1 for `Store`, 2 for `Tx`. -/
def Event.rank : Event → Nat
  | .diag _ _ => 0
  | .store _ _ _ => 1
  | .tx _ => 2

/-- An event is a `Tx`. -/
def Event.isTx : Event → Bool
  | .tx _ => true
  | .store _ _ _ => false
  | .diag _ _ => false

/-- An event is a `Store`. -/
def Event.isStore : Event → Bool
  | .store _ _ _ => true
  | .tx _ => false
  | .diag _ _ => false

/-- The state a frame's handler leaves when it refuses the frame with error `e` and NACK, and writes nothing else (R221). -/
def refusedWith (s : State) (e : ErrorCode) (info : List Nat) : State :=
  { s with trace := s.trace ++ [.diag e info, .tx [0x81, 0x94, 0x15]] }

/-- The machine run for `n` steps, as the host runs it (R15). -/
def runSteps (n : Nat) (s : State) : Host.Outcome State Fault Refusal := Host.Core.run Sys2Proof.core n s

/-- The byte `b` makes the partial frame of `s` complete (R135). -/
def Completes (c : Cfg) (s : State) (b : Byte) : Prop :=
  s.asmState = .accumulating ∧ s.frameLen < c.maxFrame ∧
    expectedLen c (partialFrame s ++ [b]) = some (s.frameLen + 1)

/-- The scratch buffer is full: the next byte overflows it (R134). -/
def Overflows (c : Cfg) (s : State) : Prop := s.asmState = .accumulating ∧ s.frameLen = c.maxFrame

/-- Instructions run one after the other, up to the first that stops. -/
def execAll : List Instr → State → Host.Outcome State Fault Refusal
  | [], s => .next s
  | i :: is, s =>
    match exec i s with
    | .next t => execAll is t
    | .fault f => .fault f
    | .refused r => .refused r

/-- The operands of a FILE_DATA (R93). -/
structure Packet where
  seqNum : Half
  data : List Byte
  checksum : Byte
deriving DecidableEq, Repr

/-- The packet as an instruction. -/
def Packet.instr (p : Packet) : Instr := .fileData p.seqNum p.data p.checksum

/-- The receive-buffer address `a` is in the packet's place: the `dataLen` bytes from `(seq - 1) * 256`, for `seq >= 1` (R66). -/
abbrev Packet.Covers (p : Packet) (a : Nat) : Prop :=
  1 ≤ p.seqNum.toNat ∧ (p.seqNum.toNat - 1) * 256 ≤ a ∧ a < (p.seqNum.toNat - 1) * 256 + p.data.length

/-- A byte string as the inputs of a run (R15). -/
def inputs (bytes : List Byte) : List Input := bytes.map .byte

end Sys2Proof.Machine

namespace Sys2Proof

/-- The frame with its right checksum in place of the one it carries (R102). -/
def Instr.signed (i : Instr) : Instr :=
  let cs := Machine.checksum (encodeBody Cfg.device i)
  match i with
  | .fileStart filename fileSize _ => .fileStart filename fileSize cs
  | .fileData seqNum data _ => .fileData seqNum data cs
  | .fileEnd totalPackets _ => .fileEnd totalPackets cs
  | .ack _ => .ack cs
  | .nack _ => .nack cs
  | .ready _ => .ready cs

end Sys2Proof
end

