-- ==== Sys2Proof/Certificates/Slice0/Obligations.lean ====
section
/-! DEFINITION. The statements about this model that are to be proved. Each says which rule of spec/ it comes from. -/

open Sys2Proof Sys2Proof.Machine

/-! Encoding -/

/-- Decoding an encoded well-formed frame gives the frame back and leaves the bytes after it (R92 to R96, R102). -/
def Obligations.DecodeEncodeRoundTrip : Prop :=
  ∀ (c : Cfg) (i : Instr) (rest : List Byte), c.valid = true → i.wellFormed c = true →
    decodeWith c (encodeWith c i ++ rest) = .ok (i, rest)

/-- What the decoder reads is what the encoder writes: no other bytes decode to a frame (R92 to R96, R102). -/
def Obligations.EncodeDecodeRoundTrip : Prop :=
  ∀ (c : Cfg) (F rest : List Byte) (i : Instr), decodeWith c F = .ok (i, rest) →
    F = encodeWith c i ++ rest ∧ (i.isCommand = true → i.wellFormed c = true)

/-- A frame cut off after its command byte is refused by the decoder as truncated (R92 to R97; that the decoder refuses, and the
error's name, are the model's choice, log 16). -/
def Obligations.CutFrameIsTruncated : Prop :=
  ∀ (c : Cfg) (i : Instr) (k : Nat), c.valid = true → i.wellFormed c = true → 2 ≤ k → k < layoutLength i →
    ∃ need, decodeWith c ((encodeWith c i).take k) = .error (.truncated k need)

/-- The worked encodings of R104. -/
def Obligations.WorkedEncodings : Prop :=
  encode (Instr.fileStart [0x61, 0x2E, 0x74, 0x78, 0x74] 10 0).signed =
      [0x81, 0x90, 0x05, 0x61, 0x2E, 0x74, 0x78, 0x74, 0x00, 0x00, 0x00, 0x0A, 0x0F] ∧
  encode (Instr.fileData 1 [0x30, 0x31, 0x32, 0x33, 0x34, 0x35, 0x36, 0x37, 0x38, 0x39] 0).signed =
      [0x81, 0x91, 0x00, 0x01, 0x0A, 0x30, 0x31, 0x32, 0x33, 0x34, 0x35, 0x36, 0x37, 0x38, 0x39, 0x2A] ∧
  encode (Instr.fileEnd 1 0).signed = [0x81, 0x92, 0x00, 0x01, 0x14] ∧
  encode (Instr.fileStart [0x61, 0x2E, 0x74, 0x78, 0x74] 20000 0).signed =
      [0x81, 0x90, 0x05, 0x61, 0x2E, 0x74, 0x78, 0x74, 0x00, 0x00, 0x4E, 0x20, 0x73] ∧
  encode (Instr.fileStart [] 0 0).signed = [0x81, 0x90, 0x00, 0x00, 0x00, 0x00, 0x00, 0x11] ∧
  encode (Instr.fileData 41 [] 0).signed = [0x81, 0x91, 0x00, 0x29, 0x00, 0x3B] ∧
  encode (Instr.ack 0).signed = [0x81, 0x93, 0x14] ∧
  encode (Instr.nack 0).signed = [0x81, 0x94, 0x15] ∧
  encode (Instr.ready 0).signed = [0x81, 0x95, 0x16]

/-- Words written out from the layouts decode to the frames they stand for (R92 to R96; these six words are R104's). In the last
two clauses an unknown command and a missing header are refused by name: that the decoder refuses them, and the names, are the
model's choice (log 16). -/
def Obligations.WrittenWordsDecode : Prop :=
  decode [0x81, 0x90, 0x05, 0x61, 0x2E, 0x74, 0x78, 0x74, 0x00, 0x00, 0x4E, 0x20, 0x73] =
      .ok (.fileStart [0x61, 0x2E, 0x74, 0x78, 0x74] 20000 0x73, []) ∧
  decode [0x81, 0x91, 0x00, 0x29, 0x00, 0x3B] = .ok (.fileData 41 [] 0x3B, []) ∧
  decode [0x81, 0x92, 0x00, 0x01, 0x14] = .ok (.fileEnd 1 0x14, []) ∧
  decode [0x81, 0x93, 0x14] = .ok (.ack 0x14, []) ∧
  decode [0x81, 0x94, 0x15] = .ok (.nack 0x15, []) ∧
  decode [0x81, 0x95, 0x16] = .ok (.ready 0x16, []) ∧
  decode [0x81, 0xA0, 0x00] = .error (.unknownCommand 0xA0) ∧
  decode [0x00, 0x90, 0x00] = .error (.badHeader 0x00)

/-- The length of a received frame is known from position 1 (FILE_END), 2 (FILE_START) or 4 (FILE_DATA) on and not before,
and then it is the layout length; that of a response frame is never known (R97, R101, R99). -/
def Obligations.LengthKnownFromItsPosition : Prop :=
  ∀ c : Cfg, c.valid = true →
    (∀ filename size cs k, filename.length ≤ 255 → k ≤ filename.length + 8 →
      expectedLen c ((encodeWith c (.fileStart filename size cs)).take k) =
        if k < 3 then none else some (filename.length + 8)) ∧
    (∀ seq data cs k, data.length ≤ 255 → k ≤ data.length + 6 →
      expectedLen c ((encodeWith c (.fileData seq data cs)).take k) =
        if k < 5 then none else some (data.length + 6)) ∧
    (∀ total cs k, k ≤ 5 →
      expectedLen c ((encodeWith c (.fileEnd total cs)).take k) = if k < 2 then none else some 5) ∧
    (∀ i k, i.isCommand = false → expectedLen c ((encodeWith c i).take k) = none)

/-- Completion is exact (R136): a partial frame short of its expected length is not past it after one more byte, and a frame of
its expected length has exactly the layout of a received command. -/
def Obligations.CompletionIsExact : Prop :=
  ∀ c : Cfg,
    (∀ (P : List Byte) (b : Byte) (E : Nat), (∀ E', expectedLen c P = some E' → P.length < E') →
      expectedLen c (P ++ [b]) = some E → P.length + 1 ≤ E) ∧
    (∀ F : List Byte, byteAt F 0 = c.header → expectedLen c F = some F.length →
      ∃ i, decodeWith c F = .ok (i, []) ∧ i.isCommand = true ∧ layoutLength i = F.length)

/-! Checksum -/

/-- `Checksum` is the sum of the bytes mod 256, in whatever order they come; of no bytes it is zero (R120). -/
def Obligations.ChecksumIsSumMod256 : Prop :=
  (∀ x : List Byte, (checksum x).toNat = (x.map BitVec.toNat).sum % 256) ∧
  (∀ x y : List Byte, x.Perm y → checksum x = checksum y) ∧
  checksum [] = 0x00

/-- The checksum round trip (R123). -/
def Obligations.ChecksumRoundTrip : Prop :=
  ∀ p : List Byte, 2 ≤ p.length → checksumOK (p ++ [checksum p]) = true

/-- A change of exactly one byte is detected; a change of bytes before the checksum byte that keeps their sum mod 256 is not
(R124). -/
def Obligations.ChecksumDetectsOneChangedByte : Prop :=
  (∀ (F : List Byte) (k : Nat) (b : Byte), k < F.length → b ≠ byteAt F k → checksumOK F = true →
    checksumOK (F.set k b) = false) ∧
  (∀ (p q : List Byte) (cs : Byte), (p.map BitVec.toNat).sum % 256 = (q.map BitVec.toNat).sum % 256 →
    checksumOK (p ++ [cs]) = checksumOK (q ++ [cs]))

/-! Responder and errors -/

/-- `Respond(k)` emits the 3-byte frame of its kind and writes no state (R210), for every `cfg`. -/
def Obligations.RespondEmitsOneFrame : Prop :=
  ∀ (c : Cfg) (s : State),
    respond c .ack s = { s with trace := s.trace ++ [.tx [c.header, c.cmdAck, c.header + c.cmdAck]] } ∧
    respond c .nack s = { s with trace := s.trace ++ [.tx [c.header, c.cmdNack, c.header + c.cmdNack]] } ∧
    respond c .ready s = { s with trace := s.trace ++ [.tx [c.header, c.cmdReady, c.header + c.cmdReady]] }

/-- ACK, NACK and READY complete in every state: the frame goes out and nothing else changes (R210 to R213, R95). That the
meaning of these rows is their sending is the model's reading (log 4). -/
def Obligations.ResponseFramesAreSent : Prop :=
  ∀ (cs : Byte) (s : State),
    exec (.ack cs) s = .next { s with trace := s.trace ++ [.tx [0x81, 0x93, 0x14]] } ∧
    exec (.nack cs) s = .next { s with trace := s.trace ++ [.tx [0x81, 0x94, 0x15]] } ∧
    exec (.ready cs) s = .next { s with trace := s.trace ++ [.tx [0x81, 0x95, 0x16]] }

/-- `raise` emits the diagnostic and then NACK, but for the three entries of R222 that have no response, and writes no state
(R221). -/
def Obligations.RaiseEmitsDiagThenNack : Prop :=
  ∀ (c : Cfg) (e : ErrorCode) (info : List Nat) (s : State),
    raise c e info s = { s with
      trace := s.trace ++ [.diag e info] ++
        (if e = .frameOverflow ∨ e = .unknownCommand ∨ e = .endCountMismatch then []
         else [.tx (responseFrame c .nack)]) }

/-! Assembler -/

/-- A non-header byte while seeking changes nothing and emits nothing (R131). -/
def Obligations.NoiseByteIsIgnored : Prop :=
  ∀ (c : Cfg) (s : State) (b : Byte) (rest : List Input), c.valid = true →
    s.asmState = .seekingHeader → s.rx = .byte b :: rest → b ≠ c.header →
      stepWith c s = .next { s with rx := rest }

/-- A header byte while seeking starts a frame; the stale bytes of `Scratch` stay (R132). -/
def Obligations.HeaderByteStartsFrame : Prop :=
  ∀ (c : Cfg) (s : State) (rest : List Input), c.valid = true →
    s.asmState = .seekingHeader → s.rx = .byte c.header :: rest →
      ∃ t, stepWith c s = .next t ∧
        t = { s with rx := rest, asmState := .accumulating, frameLen := 1, scratch := t.scratch } ∧
        t.scratch.read 0 = c.header ∧ ∀ a, a ≠ 0 → t.scratch.read a = s.scratch.read a

/-- A byte while accumulating is stored at `frame_len`, whatever its value, and nothing else happens where it does not complete
the frame (R133). -/
def Obligations.ByteIsStoredWhileAccumulating : Prop :=
  ∀ (c : Cfg) (s : State) (b : Byte) (rest : List Input), c.valid = true →
    s.asmState = .accumulating → s.frameLen < c.maxFrame → s.rx = .byte b :: rest →
      expectedLen c (partialFrame s ++ [b]) ≠ some (s.frameLen + 1) →
        ∃ t, stepWith c s = .next t ∧
          t = { s with rx := rest, frameLen := s.frameLen + 1, scratch := t.scratch } ∧
          partialFrame t = partialFrame s ++ [b] ∧
          ∀ a, a ≠ s.frameLen → t.scratch.read a = s.scratch.read a

/-- A byte with the scratch buffer full discards the partial frame with `FRAME_OVERFLOW` and no response, and is dropped, or under
`REEXAMINE` starts a frame if it is a header (R134; that the byte is dropped is the spec's decision D3). A frame of exactly
`MAX_FRAME` bytes is complete on its last byte and is dispatched. No other step emits `FRAME_OVERFLOW`: only a byte that arrives
with `MAX_FRAME` bytes of an unfinished frame stored does. -/
def Obligations.FullScratchOverflows : Prop :=
  ∀ (c : Cfg) (s : State), c.valid = true →
    (∀ (b : Byte) (rest : List Input),
      s.asmState = .accumulating → s.frameLen = c.maxFrame → s.rx = .byte b :: rest →
        stepWith c s = .next
          (if c.overflowPolicy = .reexamine ∧ b = c.header then
            { s with rx := rest, asmState := .accumulating, frameLen := 1,
                     scratch := s.scratch.write 0 c.header,
                     trace := s.trace ++ [.diag .frameOverflow [b.toNat]] }
           else
            { s with rx := rest, asmState := .seekingHeader, frameLen := 0,
                     trace := s.trace ++ [.diag .frameOverflow [b.toNat]] })) ∧
    (∀ (b : Byte) (rest : List Input),
      s.asmState = .accumulating → s.frameLen + 1 = c.maxFrame → s.rx = .byte b :: rest →
      expectedLen c (partialFrame s ++ [b]) = some c.maxFrame →
        stepWith c s = dispatch c (partialFrame s ++ [b])
          { s with rx := rest, asmState := .seekingHeader, frameLen := 0,
                   scratch := s.scratch.write s.frameLen b }) ∧
    (∀ (t : State) (info : List Nat), stepWith c s = .next t →
      .diag .frameOverflow info ∈ t.trace.drop s.trace.length →
        Overflows c s ∧ ∃ b rest, s.rx = .byte b :: rest)

/-- The byte that makes the frame its expected length dispatches it and releases the assembler (R135). -/
def Obligations.CompletedFrameIsDispatched : Prop :=
  ∀ (c : Cfg) (s : State) (b : Byte) (rest : List Input), c.valid = true →
    s.rx = .byte b :: rest → Completes c s b →
      stepWith c s = dispatch c (partialFrame s ++ [b])
        { s with rx := rest, asmState := .seekingHeader, frameLen := 0,
                 scratch := s.scratch.write s.frameLen b }

/-- The step of this hardware, which decodes a completed frame and runs its instruction, is the spec's `Step` at the values of
R9, which routes the frame by its command byte (R7, R130, R160): in every state. -/
def Obligations.StepIsTheSpecStep : Prop :=
  ∀ s : State, step s = stepWith Cfg.device s

/-- A step runs the decoded instruction: where the stored bytes and the next input are the frame of a command, the step is
`exec` of it, on the state with the byte taken and stored and the assembler released (R130, R135). -/
def Obligations.StepRunsDecodedInstruction : Prop :=
  ∀ (s : State) (b : Byte) (rest : List Input) (i : Instr),
    s.asmState = .accumulating → s.frameLen < 256 → s.rx = .byte b :: rest →
    decode (partialFrame s ++ [b]) = .ok (i, []) → i.isCommand = true →
      step s = exec i { s with rx := rest, asmState := .seekingHeader, frameLen := 0,
                               scratch := s.scratch.write s.frameLen b }

/-- A command frame of at most `MAX_FRAME` bytes that arrives in SEEKING_HEADER is run on its last byte, with no gap needed
before the next input (R133, R135, R281). -/
def Obligations.ArrivingFrameRuns : Prop :=
  ∀ (i : Instr) (s : State) (rest : List Input),
    i.isCommand = true → i.wellFormed Cfg.device = true → layoutLength i ≤ 256 →
    s.asmState = .seekingHeader →
      runSteps (layoutLength i) { s with rx := inputs (encode i) ++ rest } =
        exec i { s with rx := rest, asmState := .seekingHeader, frameLen := 0,
                        scratch := s.scratch.writeBytes 0 (encode i) }

/-- No header, no frame: a stream without a header byte, taken in SEEKING_HEADER, changes nothing and emits nothing (R138). -/
def Obligations.HeaderFreeStreamIsSilent : Prop :=
  ∀ (bytes : List Byte) (s : State) (rest : List Input),
    s.asmState = .seekingHeader → (∀ b ∈ bytes, b ≠ 0x81) →
      runSteps bytes.length { s with rx := inputs bytes ++ rest } = .next { s with rx := rest }

/-- A frame that never completes swallows exactly 257 bytes, its header and the dropped byte among them, with no event but the
overflow's (R137, under `DROP`). -/
def Obligations.UnfinishedFrameSwallows257Bytes : Prop :=
  ∀ (F : List Byte) (x : Byte) (s : State) (rest : List Input),
    F.length = 256 → byteAt F 0 = 0x81 → (∀ E, expectedLen Cfg.device F = some E → 256 < E) →
    s.asmState = .seekingHeader →
      runSteps 257 { s with rx := inputs (F ++ [x]) ++ rest } =
        .next { s with rx := rest, asmState := .seekingHeader, frameLen := 0,
                       scratch := s.scratch.writeBytes 0 F,
                       trace := s.trace ++ [.diag .frameOverflow [x.toNat]] }

/-- 256 non-header bytes in a row bring the assembler back to SEEKING_HEADER (R271 item 4). -/
def Obligations.FlushResynchronises : Prop :=
  ∀ (bytes : List Byte) (s : State) (rest : List Input), Inv Cfg.device s →
    bytes.length = 256 → (∀ b ∈ bytes, b ≠ 0x81) →
      ∃ t, runSteps 256 { s with rx := inputs bytes ++ rest } = .next t ∧
        t.asmState = .seekingHeader ∧ t.rx = rest

/-- With no input nothing happens, a partial frame included (R80, R140). -/
def Obligations.NoInputNoChange : Prop :=
  ∀ s : State, s.rx = [] → step s = .next s

/-- The events of one step are at most one `Diag`, then at most one `Store`, then at most one `Tx`; the step takes no event
back; and a step that neither completes a frame nor overflows emits nothing (R139, R73). -/
def Obligations.EventsOfOneStep : Prop :=
  ∀ s t : State, step s = .next t →
    ∃ evs, t.trace = s.trace ++ evs ∧ evs.Pairwise (fun e f => e.rank < f.rank) ∧
      (evs ≠ [] → ∃ b rest, s.rx = .byte b :: rest ∧ (Completes Cfg.device s b ∨ Overflows Cfg.device s)) ∧
      (Overflows Cfg.device s → ∀ b rest, s.rx = .byte b :: rest → evs = [.diag .frameOverflow [b.toNat]])

/-! Invariants -/

/-- Every step keeps the invariants of R37 and R46, the canonical memories, and "every `Tx` is a response frame" (R241). -/
def Obligations.StepKeepsInvariant : Prop :=
  ∀ s t : State, Inv Cfg.device s → step s = .next t → Inv Cfg.device t

/-- The same for the spec's `Step` at every `cfg` that meets R10. -/
def Obligations.StepKeepsInvariantForEveryCfg : Prop :=
  ∀ (c : Cfg) (s t : State), Inv c s → stepWith c s = .next t → Inv c t

/-- The invariant holds at reset. -/
def Obligations.ResetHasInvariant : Prop := Inv Cfg.device State.reset

/-- The block never stops: a state with the invariant has a next state, whatever the input (R15, R130, R220). -/
def Obligations.BlockNeverStops : Prop :=
  ∀ s : State, Inv Cfg.device s → ∃ t, step s = .next t

/-- Slot positions 250 to 255 of the receive buffer stay zero (R274). -/
def Obligations.StepKeepsSlotHolesEmpty : Prop :=
  ∀ s t : State, HolesEmpty s → step s = .next t → HolesEmpty t

/-- A step emits a `Store` only where it completes a FILE_END with a matching checksum in an active session; the event carries
the name, the data and the size as they stood, and the session is empty afterwards (R241, R82, R83). -/
def Obligations.StoreOnlyAtFileEnd : Prop :=
  ∀ (s t : State) (filename data : List Byte) (n : Nat), step s = .next t →
    .store filename data n ∈ t.trace.drop s.trace.length →
      s.active = true ∧ SessionEmpty t ∧
      filename = s.name.readBytes 0 s.nameLen ∧ n = s.declaredSize.toNat ∧
      data = s.buffer.readBytes 0 s.declaredSize.toNat ∧
      ∃ b rest, s.rx = .byte b :: rest ∧ Completes Cfg.device s b ∧
        commandOf (partialFrame s ++ [b]) = 0x92 ∧ checksumOK (partialFrame s ++ [b]) = true

/-- Stale scratch bytes, `expected_packet_count`, and the session fields of an inactive block cannot be observed: two states
that differ in them only step to two such states, with the same events (R35, R42, R45, R49). -/
def Obligations.HiddenStateIsUnobservable : Prop :=
  ∀ s s' t : State, SameObservable s s' → step s = .next t →
    ∃ t', step s' = .next t' ∧ SameObservable t t'

/-- The events already emitted influence nothing: putting any others in their place changes no state and no later event (R14,
R15; the field `trace` is the model's own, log 2). -/
def Obligations.PastEventsInfluenceNothing : Prop :=
  ∀ (s t : State) (past : List Event), step s = .next t →
    step { s with trace := past } = .next { t with trace := past ++ t.trace.drop s.trace.length }

/-! FILE_START -/

/-- An accepted FILE_START opens the session, whether or not one is active, zeroes the receive buffer, and answers READY
(R161, R163, R165, R166, R167). -/
def Obligations.FileStartOpensSession : Prop :=
  ∀ (filename : List Byte) (size : Quad) (cs : Byte) (s : State),
    filename.length ≤ 63 → size.toNat ≤ 10240 →
    cs = checksum ([0x81, 0x90, BitVec.ofNat 8 filename.length] ++ filename ++ be32Bytes size) →
      exec (.fileStart filename size cs) s = .next { s with
        active := true
        name := Memory.zeros.writeBytes 0 filename
        nameLen := filename.length
        declaredSize := size
        expectedPacketCount := (size.toNat + 255) / 256
        receivedPacketCount := 0
        buffer := Memory.zeros
        trace := s.trace ++ [.tx [0x81, 0x95, 0x16]] }

/-- `Name` after an accepted FILE_START: the filename, and zeros from `name_len` on, the terminator among them (R40). -/
def Obligations.FileStartStoresName : Prop :=
  ∀ (filename : List Byte) (size : Quad) (cs : Byte) (s t : State),
    filename.length ≤ 63 → size.toNat ≤ 10240 →
    cs = checksum ([0x81, 0x90, BitVec.ofNat 8 filename.length] ++ filename ++ be32Bytes size) →
    exec (.fileStart filename size cs) s = .next t →
      readSpace Cfg.device .name 0 t.nameLen t = .ok filename ∧
      ∀ a, filename.length ≤ a → t.name.read a = 0

/-- A filename above 63 bytes is refused with NACK before anything else is tested, and nothing changes (R162). -/
def Obligations.FileStartRefusesLongName : Prop :=
  ∀ (filename : List Byte) (size : Quad) (cs : Byte) (s : State),
    64 ≤ filename.length → filename.length ≤ 255 →
      exec (.fileStart filename size cs) s = .next (refusedWith s .startNameTooLong [filename.length])

/-- A declared size above 10240 is refused with NACK, whatever the checksum, and an active session stays as it was (R164). -/
def Obligations.FileStartRefusesLargeSize : Prop :=
  ∀ (filename : List Byte) (size : Quad) (cs : Byte) (s : State),
    filename.length ≤ 63 → 10240 < size.toNat →
      exec (.fileStart filename size cs) s = .next (refusedWith s .startSizeTooLarge [size.toNat])

/-- A FILE_START with good fields and a wrong checksum is refused with NACK and leaves no session, not even an earlier one
(R166, R167, R45). -/
def Obligations.FileStartChecksumFailureClears : Prop :=
  ∀ (filename : List Byte) (size : Quad) (cs good : Byte) (s : State),
    filename.length ≤ 63 → size.toNat ≤ 10240 →
    good = checksum ([0x81, 0x90, BitVec.ofNat 8 filename.length] ++ filename ++ be32Bytes size) → cs ≠ good →
      exec (.fileStart filename size cs) s =
        .next (refusedWith { s with active := false, name := Memory.zeros, nameLen := 0, declaredSize := 0,
                                    expectedPacketCount := 0, receivedPacketCount := 0, buffer := Memory.zeros }
          .startChecksum [cs.toNat, good.toNat])

/-! FILE_DATA -/

/-- An accepted FILE_DATA writes its payload at `(seq - 1) * 256`, counts it mod 65536 and answers ACK (R170, R171, R174). -/
def Obligations.FileDataStoresPacket : Prop :=
  ∀ (seq : Half) (data : List Byte) (cs : Byte) (s : State),
    s.active = true → data.length ≤ 255 → 1 ≤ seq.toNat → (seq.toNat - 1) * 256 + data.length ≤ 10240 →
    cs = checksum ([0x81, 0x91] ++ be16Bytes seq ++ [BitVec.ofNat 8 data.length] ++ data) →
      exec (.fileData seq data cs) s = .next { s with
        buffer := s.buffer.writeBytes ((seq.toNat - 1) * 256) data
        receivedPacketCount := (s.receivedPacketCount + 1) % 65536
        trace := s.trace ++ [.tx [0x81, 0x93, 0x14]] }

/-- A FILE_DATA whose checksum fails is refused with NACK; its payload has been written and stays, and neither the session nor
a counter changes (R171, R175). -/
def Obligations.FileDataChecksumFailureKeepsWrite : Prop :=
  ∀ (seq : Half) (data : List Byte) (cs good : Byte) (s : State),
    s.active = true → data.length ≤ 255 → 1 ≤ seq.toNat → (seq.toNat - 1) * 256 + data.length ≤ 10240 →
    good = checksum ([0x81, 0x91] ++ be16Bytes seq ++ [BitVec.ofNat 8 data.length] ++ data) → cs ≠ good →
      exec (.fileData seq data cs) s =
        .next (refusedWith { s with buffer := s.buffer.writeBytes ((seq.toNat - 1) * 256) data }
          .dataChecksum [seq.toNat])

/-- A FILE_DATA is refused with NACK and no change where no session is active, where its sequence number is 0, and where its
payload would leave the receive buffer, in this order and whatever the checksum (R172, R174, R226). -/
def Obligations.FileDataRefusals : Prop :=
  ∀ (seq : Half) (data : List Byte) (cs : Byte) (s : State), data.length ≤ 255 →
    (s.active = false → exec (.fileData seq data cs) s = .next (refusedWith s .dataNoSession [])) ∧
    (s.active = true → seq.toNat = 0 → exec (.fileData seq data cs) s = .next (refusedWith s .dataSeqZero [])) ∧
    (s.active = true → 1 ≤ seq.toNat → 10240 < (seq.toNat - 1) * 256 + data.length →
      exec (.fileData seq data cs) s =
        .next (refusedWith s .dataOutOfBounds [(seq.toNat - 1) * 256, data.length]))

/-- The frame of FILE_DATA: every byte of the receive buffer outside its payload's place reads as before, and of the other
fields it writes only the packet counter and the trace (R170). -/
def Obligations.FileDataFrame : Prop :=
  ∀ (seq : Half) (data : List Byte) (cs : Byte) (s t : State), data.length ≤ 255 →
    exec (.fileData seq data cs) s = .next t →
      t = { s with buffer := t.buffer, receivedPacketCount := t.receivedPacketCount, trace := t.trace } ∧
      ∀ a, ¬ (packetOffset Cfg.device seq.toNat ≤ a ∧ a < packetOffset Cfg.device seq.toNat + data.length) →
        t.buffer.read a = s.buffer.read a

/-- Payload byte `k` of a FILE_DATA that passes its bounds check lands at `(seq - 1) * 256 + k`, whatever the checksum
(R66, R69, R175). -/
def Obligations.PayloadByteLandsAtItsAddress : Prop :=
  ∀ (seq : Half) (data : List Byte) (cs : Byte) (s t : State) (k : Nat),
    s.active = true → data.length ≤ 255 → 1 ≤ seq.toNat → (seq.toNat - 1) * 256 + data.length ≤ 10240 →
    k < data.length → exec (.fileData seq data cs) s = .next t →
      t.buffer.read ((seq.toNat - 1) * 256 + k) = byteAt data k

/-- A correct packet after a corrupted one of the same place and length leaves the buffer as if the corrupted one had never
come (R273, R176). -/
def Obligations.RetransmissionRepairsSlot : Prop :=
  ∀ (seq : Half) (bad data : List Byte) (cs cs' : Byte) (s s₁ s₂ t : State),
    s.active = true → bad.length = data.length → data.length ≤ 255 →
    1 ≤ seq.toNat → (seq.toNat - 1) * 256 + data.length ≤ 10240 →
    exec (.fileData seq bad cs) s = .next s₁ → exec (.fileData seq data cs') s₁ = .next s₂ →
    exec (.fileData seq data cs') s = .next t →
      ∀ a, s₂.buffer.read a = t.buffer.read a

/-! FILE_END -/

/-- An accepted FILE_END warns where the packet counts differ, hands the file to the storage sink, answers ACK, and clears the
session (R180, R181, R83, R184). The two bounds hold in every state with the invariant (R46). -/
def Obligations.FileEndStoresFile : Prop :=
  ∀ (total : Half) (cs : Byte) (s : State),
    s.active = true → s.nameLen ≤ 64 → s.declaredSize.toNat ≤ 10240 →
    cs = checksum ([0x81, 0x92] ++ be16Bytes total) →
      exec (.fileEnd total cs) s = .next { s with
        active := false
        name := Memory.zeros
        nameLen := 0
        declaredSize := 0
        expectedPacketCount := 0
        receivedPacketCount := 0
        buffer := Memory.zeros
        trace := s.trace ++
          (if total.toNat = s.receivedPacketCount then []
           else [.diag .endCountMismatch [total.toNat, s.receivedPacketCount]]) ++
          [.store (s.name.readBytes 0 s.nameLen) (s.buffer.readBytes 0 s.declaredSize.toNat) s.declaredSize.toNat,
           .tx [0x81, 0x93, 0x14]] }

/-- A FILE_END with a wrong checksum in an active session is refused with NACK; the session is cleared and nothing is stored
(R183). -/
def Obligations.FileEndChecksumFailureClears : Prop :=
  ∀ (total : Half) (cs good : Byte) (s : State),
    s.active = true → good = checksum ([0x81, 0x92] ++ be16Bytes total) → cs ≠ good →
      exec (.fileEnd total cs) s =
        .next (refusedWith { s with active := false, name := Memory.zeros, nameLen := 0, declaredSize := 0,
                                    expectedPacketCount := 0, receivedPacketCount := 0, buffer := Memory.zeros }
          .endChecksum [cs.toNat, good.toNat])

/-- A FILE_END with no session active is refused with NACK, whatever its checksum, and nothing changes (R182). -/
def Obligations.FileEndRefusedWithoutSession : Prop :=
  ∀ (total : Half) (cs : Byte) (s : State), s.active = false →
    exec (.fileEnd total cs) s = .next (refusedWith s .endNoSession [])

/-- Bytes of the receive buffer that no packet of the session wrote are stored as zero (R65, R185): after an accepted FILE_START
and any FILE_DATA frames, accepted or refused, an accepted FILE_END stores a file that is zero at every address outside the places
of these packets. With no packet it is all zeros. A packet with sequence number 0 has no place. -/
def Obligations.UnwrittenBytesAreStoredAsZero : Prop :=
  ∀ (filename : List Byte) (size : Quad) (packets : List Packet) (total : Half) (s : State),
    filename.length ≤ 63 → size.toNat ≤ 10240 → (∀ p ∈ packets, p.data.length ≤ 255) →
      ∃ s₁ t data,
        execAll ((Instr.fileStart filename size 0).signed :: packets.map Packet.instr) s = .next s₁ ∧
        exec (Instr.fileEnd total 0).signed s₁ = .next t ∧
        .store filename data size.toNat ∈ t.trace.drop s₁.trace.length ∧
        data.length = size.toNat ∧
        ∀ a, (∀ p ∈ packets, ¬ p.Covers a) → byteAt data a = 0

/-! All commands -/

/-- No instruction touches the assembler, the scratch buffer or the inputs, and a response frame touches nothing but the trace
(R161, R170, R180, R210). -/
def Obligations.ExecLeavesAssemblerAlone : Prop :=
  ∀ (i : Instr) (s t : State), exec i s = .next t →
    t.asmState = s.asmState ∧ t.frameLen = s.frameLen ∧ t.scratch = s.scratch ∧ t.rx = s.rx ∧
    (i.isCommand = false → t = { s with trace := t.trace })

/-- Every dispatched frame gets exactly one response: READY or NACK for FILE_START, ACK or NACK for FILE_DATA and FILE_END; and
a step that completes no frame sends none (R193). -/
def Obligations.OneResponsePerDispatchedFrame : Prop :=
  (∀ (filename : List Byte) (size : Quad) (cs : Byte) (s t : State), exec (.fileStart filename size cs) s = .next t →
    ∃ evs, t.trace = s.trace ++ evs ∧
      (evs.filter Event.isTx = [.tx [0x81, 0x95, 0x16]] ∨ evs.filter Event.isTx = [.tx [0x81, 0x94, 0x15]])) ∧
  (∀ (seq : Half) (data : List Byte) (cs : Byte) (s t : State), exec (.fileData seq data cs) s = .next t →
    ∃ evs, t.trace = s.trace ++ evs ∧
      (evs.filter Event.isTx = [.tx [0x81, 0x93, 0x14]] ∨ evs.filter Event.isTx = [.tx [0x81, 0x94, 0x15]])) ∧
  (∀ (total : Half) (cs : Byte) (s t : State), exec (.fileEnd total cs) s = .next t →
    ∃ evs, t.trace = s.trace ++ evs ∧
      (evs.filter Event.isTx = [.tx [0x81, 0x93, 0x14]] ∨ evs.filter Event.isTx = [.tx [0x81, 0x94, 0x15]])) ∧
  (∀ s t : State, step s = .next t → (∀ b rest, s.rx = .byte b :: rest → ¬ Completes Cfg.device s b) →
    ∃ evs, t.trace = s.trace ++ evs ∧ evs.filter Event.isTx = [])

/-- A handler given a frame shorter than its fields refuses it with NACK and no change, for every `cfg` (R162, R172, R173, R182:
the tests no dispatched frame fails). -/
def Obligations.ShortFramesAreRefused : Prop :=
  ∀ (c : Cfg) (F : List Byte) (s : State),
    (F.length < c.minStart → startHandler c F s = .next (raise c .startTooShort [F.length] s)) ∧
    (c.minStart ≤ F.length → filenameLenOf F ≤ c.maxName - 1 → F.length < filenameLenOf F + 8 →
      startHandler c F s = .next (raise c .startTooShort [F.length] s)) ∧
    (s.active = true → F.length < c.minData → dataHandler c F s = .next (raise c .dataTooShort [F.length] s)) ∧
    (s.active = true → c.minData ≤ F.length → c.maxPayload < dataLenOf F →
      dataHandler c F s = .next (raise c .dataPayloadTooLong [dataLenOf F] s)) ∧
    (s.active = true → c.minData ≤ F.length → dataLenOf F ≤ c.maxPayload → F.length < dataLenOf F + 6 →
      dataHandler c F s = .next (raise c .dataTooShort [F.length] s)) ∧
    (s.active = true → F.length < c.minEnd → endHandler c F s = .next (raise c .endTooShort [F.length] s))

/-- A frame with an unknown command, given to the dispatcher, gets a diagnostic and no response (R190). -/
def Obligations.UnknownCommandIsDropped : Prop :=
  ∀ (c : Cfg) (F : List Byte) (s : State),
    commandOf F ≠ c.cmdFileStart → commandOf F ≠ c.cmdFileData → commandOf F ≠ c.cmdFileEnd →
      dispatch c F s = .next { s with trace := s.trace ++ [.diag .unknownCommand [(commandOf F).toNat]] }

/-- A whole transfer of a file of at most 250 bytes in one packet: the three frames arrive back to back, are answered READY, ACK
and ACK, the sink gets exactly the file, and the session is empty again (R161, R170, R180, R281). -/
def Obligations.OnePacketTransferDeliversFile : Prop :=
  ∀ (filename data : List Byte) (s : State) (rest : List Input),
    filename.length ≤ 63 → data.length ≤ 250 → s.asmState = .seekingHeader →
      let size : Quad := BitVec.ofNat 32 data.length
      let frames := encode (Instr.fileStart filename size 0).signed ++
        encode (Instr.fileData 1 data 0).signed ++ encode (Instr.fileEnd 1 0).signed
      ∃ t, runSteps frames.length { s with rx := inputs frames ++ rest } = .next t ∧
        t.trace = s.trace ++ [.tx [0x81, 0x95, 0x16], .tx [0x81, 0x93, 0x14],
          .store filename data data.length, .tx [0x81, 0x93, 0x14]] ∧
        SessionEmpty t ∧ t.asmState = .seekingHeader ∧ t.rx = rest

/-! Memory, session and reset -/

/-- `MemWrite` inside the receive buffer writes exactly its bytes, which `MemRead` then reads, and changes nothing else; outside
the buffer both fault (R63, R64). -/
def Obligations.BufferAccessesAreChecked : Prop :=
  ∀ (c : Cfg) (addr : Nat) (v : List Byte) (s : State),
    (addr + v.length ≤ c.maxFile → ∃ t, memWrite c addr v s = .ok t ∧ t = { s with buffer := t.buffer } ∧
      readSpace c .buffer addr v.length t = .ok v ∧
      ∀ a, ¬ (addr ≤ a ∧ a < addr + v.length) → t.buffer.read a = s.buffer.read a) ∧
    (c.maxFile < addr + v.length →
      memWrite c addr v s = .error (.writeOutOfRange .buffer addr v.length) ∧
      readSpace c .buffer addr v.length s = .error (.readOutOfRange .buffer addr v.length))

/-- `SessionClear()` sets every session field to the value it has at reset and touches nothing else (R45). -/
def Obligations.SessionClearEmptiesSession : Prop :=
  ∀ s : State, SessionEmpty (sessionClear s) ∧ SessionEmpty State.reset ∧
    sessionClear s = { s with active := false, name := State.reset.name, nameLen := 0, declaredSize := 0,
                              expectedPacketCount := 0, receivedPacketCount := 0, buffer := State.reset.buffer }

/-- The reset state (R260): SEEKING_HEADER, no partial frame, no session, and every byte of `Name` and `Buffer` zero. `Scratch`
is unspecified there and is not stated here (log 1). -/
def Obligations.ResetStateValues : Prop :=
  State.reset.asmState = .seekingHeader ∧ State.reset.frameLen = 0 ∧ State.reset.active = false ∧
  (∀ a, State.reset.name.read a = 0) ∧ State.reset.nameLen = 0 ∧ State.reset.declaredSize = 0 ∧
  State.reset.expectedPacketCount = 0 ∧ State.reset.receivedPacketCount = 0 ∧
  (∀ a, State.reset.buffer.read a = 0)

/-- A reset between two bytes replaces the whole state, emits nothing and withdraws nothing; a second one right after it changes
nothing more (R261, R262). That `Scratch` is then zero is the model's choice (log 1). -/
def Obligations.ResetReplacesState : Prop :=
  ∀ (s : State) (rest : List Input),
    (s.rx = .reset :: rest → step s = .next { State.reset with rx := rest, trace := s.trace }) ∧
    applyReset (applyReset s) = applyReset s

/-- A `cfg` that breaks a constraint of R10 is refused, and no other is (I14; the refusal's form is the model's choice, log 15).
R10 speaks of seven command bytes where R9 has six and `HEADER`: the model reads the six as the distinct ones (log 9), so a `cfg`
whose `HEADER` equals a command byte is not refused. -/
def Obligations.InvalidCfgIsRefused : Prop :=
  ∀ (c : Cfg) (s : State),
    if c.cmdFileStart ≠ c.cmdFileData ∧ c.cmdFileStart ≠ c.cmdFileEnd ∧ c.cmdFileStart ≠ c.cmdAck ∧
        c.cmdFileStart ≠ c.cmdNack ∧ c.cmdFileStart ≠ c.cmdReady ∧
        c.cmdFileData ≠ c.cmdFileEnd ∧ c.cmdFileData ≠ c.cmdAck ∧ c.cmdFileData ≠ c.cmdNack ∧
        c.cmdFileData ≠ c.cmdReady ∧
        c.cmdFileEnd ≠ c.cmdAck ∧ c.cmdFileEnd ≠ c.cmdNack ∧ c.cmdFileEnd ≠ c.cmdReady ∧
        c.cmdAck ≠ c.cmdNack ∧ c.cmdAck ≠ c.cmdReady ∧ c.cmdNack ≠ c.cmdReady ∧
        1 ≤ c.maxName ∧ c.minStart ≤ c.maxFrame ∧ c.minData ≤ c.maxFrame ∧ c.minEnd ≤ c.maxFrame ∧
        1 ≤ c.maxPayload ∧ 8 ≤ c.minStart ∧ 6 ≤ c.minData ∧ 5 ≤ c.minEnd ∧ 16 ≤ c.countWidth
    then ∀ r, stepWith c s ≠ .refused r
    else stepWith c s = .refused .invalidConfig

/-- The transfers on the ports are those of the trace, in order: what has been sent and what is pending together are the `Tx`
and `Store` projection of the trace, after taking an input, handing an output over, and a reset (R84, R85). -/
def Obligations.PortTransfersFollowTrace : Prop :=
  ∀ p q : PortState, p.sent ++ p.pending = transfersOf p.block.trace →
    (portTake p = .next q → q.sent ++ q.pending = transfersOf q.block.trace) ∧
    (portHandOver p).sent ++ (portHandOver p).pending = transfersOf (portHandOver p).block.trace ∧
    (portReset p = .next q → q.sent ++ q.pending = transfersOf q.block.trace)
end

