-- ==== Sys2Proof/Laws/Encoding.lean ====
section
/-! SUPPORT. The fields of an encoded frame, read back by the operand functions (30_encoding.md R91 to R95). -/

namespace Sys2Proof

@[simp] theorem be16Bytes_length (v : Half) : (be16Bytes v).length = 2 := rfl

@[simp] theorem be32Bytes_length (v : Quad) : (be32Bytes v).length = 4 := rfl

/-- A frame has the length of its layout (R92 to R95). -/
@[simp] theorem encodeWith_length (c : Cfg) (i : Instr) : (encodeWith c i).length = layoutLength i := by
  cases i <;> simp [encodeWith, encodeBody, layoutLength, be16Bytes, be32Bytes]

/-- The frame without its checksum byte. -/
@[simp] theorem encodeWith_dropLast (c : Cfg) (i : Instr) : (encodeWith c i).dropLast = encodeBody c i := by
  simp [encodeWith]

theorem byteAt_append_left {F G : List Byte} {i : Nat} (h : i < F.length) : byteAt (F ++ G) i = byteAt F i := by
  simp [byteAt, List.getD_eq_getElem?_getD, List.getElem?_append_left h]

theorem byteAt_append_right {F G : List Byte} {i : Nat} (h : F.length ≤ i) :
    byteAt (F ++ G) i = byteAt G (i - F.length) := by
  simp [byteAt, List.getD_eq_getElem?_getD, List.getElem?_append_right h]

@[simp] theorem byteAt_cons_zero (b : Byte) (F : List Byte) : byteAt (b :: F) 0 = b := rfl

@[simp] theorem byteAt_cons_succ (b : Byte) (F : List Byte) (i : Nat) : byteAt (b :: F) (i + 1) = byteAt F i := rfl

/-- The list of the `n` bytes after `p`. -/
theorem slice_append (p v w : List Byte) : slice (p ++ (v ++ w)) p.length v.length = v := by
  simp [slice]

/-- The two bytes of a 16-bit field give back its value (R91). -/
theorem be16_be16Bytes (p w : List Byte) (v : Half) : be16 (p ++ (be16Bytes v ++ w)) p.length = v.toNat := by
  have hv := v.isLt
  have h0 : byteAt (p ++ (be16Bytes v ++ w)) p.length = BitVec.ofNat 8 (v.toNat / 256) := by
    rw [byteAt_append_right (Nat.le_refl _), Nat.sub_self]; rfl
  have h1 : byteAt (p ++ (be16Bytes v ++ w)) (p.length + 1) = BitVec.ofNat 8 (v.toNat % 256) := by
    rw [byteAt_append_right (by omega), Nat.add_sub_cancel_left]; rfl
  rw [be16, h0, h1]
  simp only [BitVec.toNat_ofNat]
  omega

/-- The four bytes of a 32-bit field give back its value (R91). -/
theorem be32_be32Bytes (p w : List Byte) (v : Quad) : be32 (p ++ (be32Bytes v ++ w)) p.length = v.toNat := by
  have hv := v.isLt
  have h0 : byteAt (p ++ (be32Bytes v ++ w)) p.length = BitVec.ofNat 8 (v.toNat / 2 ^ 24 % 256) := by
    rw [byteAt_append_right (Nat.le_refl _), Nat.sub_self]; rfl
  have h1 : byteAt (p ++ (be32Bytes v ++ w)) (p.length + 1) = BitVec.ofNat 8 (v.toNat / 2 ^ 16 % 256) := by
    rw [byteAt_append_right (by omega), Nat.add_sub_cancel_left]; rfl
  have h2 : byteAt (p ++ (be32Bytes v ++ w)) (p.length + 2) = BitVec.ofNat 8 (v.toNat / 2 ^ 8 % 256) := by
    rw [byteAt_append_right (by omega), Nat.add_sub_cancel_left]; rfl
  have h3 : byteAt (p ++ (be32Bytes v ++ w)) (p.length + 3) = BitVec.ofNat 8 (v.toNat % 256) := by
    rw [byteAt_append_right (by omega), Nat.add_sub_cancel_left]; rfl
  rw [be32, h0, h1, h2, h3]
  simp only [BitVec.toNat_ofNat]
  omega

namespace Machine

/-- The checksum byte of an encoded frame. -/
@[simp] theorem receivedChecksum_encode (c : Cfg) (i : Instr) :
    receivedChecksum (encodeWith c i) = checksumField i := by
  rw [receivedChecksum, encodeWith, byteAt_append_right (by simp)]
  simp

/-- The checksum computed over an encoded frame. -/
@[simp] theorem computedChecksum_encode (c : Cfg) (i : Instr) :
    computedChecksum (encodeWith c i) = checksum (encodeBody c i) := by
  simp [computedChecksum]

/-- An encoded frame passes the check exactly where it carries the sum of its other bytes (R121). -/
theorem checksumOK_encode (c : Cfg) (i : Instr) :
    checksumOK (encodeWith c i) = (checksum (encodeBody c i) == checksumField i) := by
  simp [checksumOK]

theorem byte_ofNat_toNat {n : Nat} (h : n ≤ 255) : (BitVec.ofNat 8 n).toNat = n := by
  rw [BitVec.toNat_ofNat]; omega

/-- The operands of an encoded FILE_START (R92). -/
theorem fileStart_operands (c : Cfg) (filename : List Byte) (fileSize : Quad) (cs : Byte)
    (h : filename.length ≤ 255) :
    let F := encodeWith c (.fileStart filename fileSize cs)
    commandOf F = c.cmdFileStart ∧ filenameLenOf F = filename.length ∧ filenameOf F = filename ∧
      fileSizeOf F = fileSize.toNat := by
  intro F
  have hn : filenameLenOf F = filename.length := byte_ofNat_toNat h
  have hF : F = [c.header, c.cmdFileStart, BitVec.ofNat 8 filename.length] ++
      (filename ++ (be32Bytes fileSize ++ [cs])) := by
    simp [F, encodeWith, encodeBody, checksumField]
  refine ⟨rfl, hn, ?_, ?_⟩
  · rw [filenameOf, hn, hF]
    exact slice_append [c.header, c.cmdFileStart, BitVec.ofNat 8 filename.length] _ _
  · rw [fileSizeOf, hn, hF, ← List.append_assoc]
    have := be32_be32Bytes ([c.header, c.cmdFileStart, BitVec.ofNat 8 filename.length] ++ filename) [cs] fileSize
    rwa [show ([c.header, c.cmdFileStart, BitVec.ofNat 8 filename.length] ++ filename).length =
      3 + filename.length by simp; omega] at this

/-- The operands of an encoded FILE_DATA (R93). -/
theorem fileData_operands (c : Cfg) (seqNum : Half) (data : List Byte) (cs : Byte) (h : data.length ≤ 255) :
    let F := encodeWith c (.fileData seqNum data cs)
    commandOf F = c.cmdFileData ∧ seqNumOf F = seqNum.toNat ∧ dataLenOf F = data.length ∧ dataOf F = data := by
  intro F
  have hd : dataLenOf F = data.length := byte_ofNat_toNat h
  have hF : F = ([c.header, c.cmdFileData] ++ be16Bytes seqNum ++ [BitVec.ofNat 8 data.length]) ++ (data ++ [cs]) := by
    simp [F, encodeWith, encodeBody, checksumField]
  refine ⟨rfl, ?_, hd, ?_⟩
  · have := be16_be16Bytes [c.header, c.cmdFileData] ([BitVec.ofNat 8 data.length] ++ (data ++ [cs])) seqNum
    rw [seqNumOf, hF]
    simpa only [List.append_assoc, List.length_cons, List.length_nil] using this
  · rw [dataOf, hd, hF]
    exact slice_append ([c.header, c.cmdFileData] ++ be16Bytes seqNum ++ [BitVec.ofNat 8 data.length]) _ _

/-- The operands of an encoded FILE_END (R94). -/
theorem fileEnd_operands (c : Cfg) (totalPackets : Half) (cs : Byte) :
    let F := encodeWith c (.fileEnd totalPackets cs)
    commandOf F = c.cmdFileEnd ∧ totalPacketsOf F = totalPackets.toNat := by
  refine ⟨rfl, ?_⟩
  have := be16_be16Bytes [c.header, c.cmdFileEnd] [cs] totalPackets
  rw [totalPacketsOf, encodeWith, encodeBody, List.append_assoc]
  exact this

end Machine

end Sys2Proof
end

