-- ==== Sys2Proof/Laws/Memory.lean ====
section
/-! SUPPORT. The laws of memory: read after write, the frame of a write, the canonical form, and the checked accesses to the
three spaces (20_memory.md R63, R64). -/

namespace Sys2Proof.Machine

namespace MemoryLaws

@[simp] theorem read_zeros (a : Nat) : Memory.zeros.read a = 0 := rfl

@[simp] theorem read_nil (a : Nat) : Memory.read [] a = 0 := rfl

theorem read_eq_unlisted (m : Memory) (a : Nat) (h : ∀ p ∈ m, p.1 ≠ a) : m.read a = Memory.unlisted := by
  induction m with
  | nil => rfl
  | cons p m ih =>
    obtain ⟨k, v⟩ := p
    simp only [Memory.read]
    rw [if_neg (h (k, v) (by simp))]
    exact ih fun q hq => h q (by simp [hq])

theorem read_erase (m : Memory) (a x : Nat) :
    Memory.read (m.filter (fun p => p.1 != a)) x = if x = a then Memory.unlisted else m.read x := by
  induction m with
  | nil => simp [Memory.read, Memory.unlisted]
  | cons p m ih =>
    obtain ⟨k, v⟩ := p
    by_cases hk : k = a
    · subst hk
      simp only [List.filter, bne_self_eq_false, ih, Memory.read]
      by_cases hx : x = k
      · simp [hx]
      · simp [hx, Ne.symm hx]
    · have : (k != a) = true := by simpa using hk
      simp only [List.filter, this, Memory.read, ih]
      by_cases hx : k = x
      · subst hx; simp [hk]
      · simp [hx]

theorem read_insertCell (m : Memory) (a x : Nat) (b : Byte) (h : ∀ p ∈ m, p.1 ≠ a) :
    Memory.read (Memory.insertCell m a b) x = if x = a then b else m.read x := by
  induction m with
  | nil =>
    simp only [Memory.insertCell, Memory.read]
    by_cases hx : x = a
    · simp [hx]
    · simp [hx, Ne.symm hx]
  | cons p m ih =>
    obtain ⟨k, v⟩ := p
    have hk : k ≠ a := h (k, v) (by simp)
    have ih := ih fun q hq => h q (by simp [hq])
    simp only [Memory.insertCell]
    split
    · simp only [Memory.read]
      by_cases hx : x = a
      · simp [hx]
      · simp [hx, Ne.symm hx]
    · simp only [Memory.read, ih]
      by_cases hx : x = a
      · subst hx; simp [hk]
      · simp [hx]

theorem erase_lacks (m : Memory) (a : Nat) : ∀ p ∈ m.filter (fun p => p.1 != a), p.1 ≠ a := by
  intro p hp
  simpa using (List.mem_filter.mp hp).2

/-- Read after write, in every memory. -/
theorem read_write (m : Memory) (a x : Nat) (b : Byte) :
    (m.write a b).read x = if x = a then b else m.read x := by
  unfold Memory.write
  split
  · next hb => rw [read_erase]; split <;> simp_all
  · rw [read_insertCell _ _ _ _ (erase_lacks m a), read_erase]; split <;> simp_all

theorem mem_insertCell {m : Memory} {a : Nat} {b : Byte} {p : Host.Cell}
    (h : p ∈ Memory.insertCell m a b) : p = (a, b) ∨ p ∈ m := by
  induction m with
  | nil => simpa [Memory.insertCell] using h
  | cons q m ih =>
    obtain ⟨k, v⟩ := q
    simp only [Memory.insertCell] at h
    split at h
    · simpa using h
    · rcases List.mem_cons.mp h with h | h
      · exact .inr (by simp [h])
      · rcases ih h with h | h
        · exact .inl h
        · exact .inr (by simp [h])

theorem insertCell_pairwise {m : Memory} {a : Nat} {b : Byte}
    (h : m.Pairwise (fun p q => p.1 < q.1)) (ha : ∀ p ∈ m, p.1 ≠ a) :
    (Memory.insertCell m a b).Pairwise (fun p q => p.1 < q.1) := by
  induction m with
  | nil => simp [Memory.insertCell]
  | cons q m ih =>
    obtain ⟨k, v⟩ := q
    have hk : k ≠ a := ha (k, v) (by simp)
    rw [List.pairwise_cons] at h
    simp only [Memory.insertCell]
    split
    · next hlt =>
      refine List.pairwise_cons.mpr ⟨?_, List.pairwise_cons.mpr h⟩
      intro p hp
      rcases List.mem_cons.mp hp with rfl | hp
      · exact hlt
      · exact Nat.lt_trans hlt (h.1 p hp)
    · next hge =>
      refine List.pairwise_cons.mpr ⟨?_, ih h.2 fun p hp => ha p (by simp [hp])⟩
      intro p hp
      rcases mem_insertCell hp with rfl | hp
      · simp only; omega
      · exact h.1 p hp

/-- A write keeps the canonical form. -/
theorem write_wf {m : Memory} (h : m.wf) (a : Nat) (b : Byte) : (m.write a b).wf := by
  obtain ⟨hp, hz⟩ := h
  have hf : (m.filter (fun p => p.1 != a)).Pairwise (fun p q => p.1 < q.1) := hp.filter _
  have hz' : ∀ p ∈ m.filter (fun p => p.1 != a), p.2 ≠ Memory.unlisted :=
    fun p hm => hz p (List.mem_filter.mp hm).1
  unfold Memory.write
  split
  · exact ⟨hf, hz'⟩
  · next hb =>
    refine ⟨insertCell_pairwise hf (erase_lacks m a), fun p hm => ?_⟩
    rcases mem_insertCell hm with rfl | hm
    · exact hb
    · exact hz' p hm

/-- A write lists no new address but its own. -/
theorem write_bounded {m : Memory} {n : Nat} (h : ∀ p ∈ m, p.1 < n) {a : Nat} (ha : a < n) (b : Byte) :
    ∀ p ∈ m.write a b, p.1 < n := by
  intro p hp
  unfold Memory.write at hp
  split at hp
  · exact h p (List.mem_filter.mp hp).1
  · rcases mem_insertCell hp with rfl | hp
    · exact ha
    · exact h p (List.mem_filter.mp hp).1

theorem zeros_wf : Memory.zeros.wf := by decide

theorem nil_wf : Memory.wf [] := by decide

/-- Every byte after a write of several: the bytes written, and elsewhere what was there. -/
theorem read_writeBytes (m : Memory) (a x : Nat) (v : List Byte) :
    (m.writeBytes a v).read x = if a ≤ x ∧ x < a + v.length then v.getD (x - a) 0 else m.read x := by
  induction v generalizing m a with
  | nil => simp [Memory.writeBytes]
  | cons b v ih =>
    simp only [Memory.writeBytes, ih, read_write, List.length_cons]
    by_cases h1 : x = a
    · subst h1; simp
    · by_cases h2 : a + 1 ≤ x ∧ x < a + 1 + v.length
      · have h3 : a ≤ x ∧ x < a + (v.length + 1) := by omega
        rw [if_pos h2, if_pos h3, show x - a = (x - (a + 1)) + 1 by omega, List.getD_cons_succ]
      · have h3 : ¬(a ≤ x ∧ x < a + (v.length + 1)) := by omega
        rw [if_neg h2, if_neg h3, if_neg h1]

theorem writeBytes_wf {m : Memory} (h : m.wf) (a : Nat) (v : List Byte) : (m.writeBytes a v).wf := by
  induction v generalizing m a with
  | nil => exact h
  | cons b v ih => exact ih (write_wf h a b) (a + 1)

theorem writeBytes_bounded {m : Memory} {n : Nat} (h : ∀ p ∈ m, p.1 < n) {a : Nat} {v : List Byte}
    (ha : a + v.length ≤ n) : ∀ p ∈ m.writeBytes a v, p.1 < n := by
  induction v generalizing m a with
  | nil => exact h
  | cons b v ih =>
    rw [List.length_cons] at ha
    exact ih (write_bounded h (by omega) b) (by omega)

theorem writeBytes_append (m : Memory) (a : Nat) (v w : List Byte) :
    m.writeBytes a (v ++ w) = (m.writeBytes a v).writeBytes (a + v.length) w := by
  induction v generalizing m a with
  | nil => simp [Memory.writeBytes]
  | cons b v ih =>
    simp only [List.cons_append, Memory.writeBytes, ih, List.length_cons]
    congr 1; omega

@[simp] theorem readBytes_length (m : Memory) (a n : Nat) : (m.readBytes a n).length = n := by
  induction n generalizing a with
  | zero => rfl
  | succ n ih => simp [Memory.readBytes, ih]

theorem readBytes_getD (m : Memory) (a n k : Nat) (hk : k < n) : (m.readBytes a n).getD k 0 = m.read (a + k) := by
  induction n generalizing a k with
  | zero => omega
  | succ n ih =>
    cases k with
    | zero => simp [Memory.readBytes]
    | succ k =>
      simp only [Memory.readBytes, List.getD_cons_succ]
      rw [ih (a + 1) k (by omega)]; congr 1; omega

theorem readBytes_ext {m m' : Memory} {a n : Nat} (h : ∀ x, a ≤ x → x < a + n → m.read x = m'.read x) :
    m.readBytes a n = m'.readBytes a n := by
  induction n generalizing a with
  | zero => rfl
  | succ n ih =>
    simp only [Memory.readBytes]
    rw [h a (by omega) (by omega), ih fun x h1 h2 => h x (by omega) (by omega)]

theorem readBytes_succ (m : Memory) (a n : Nat) :
    m.readBytes a (n + 1) = m.readBytes a n ++ [m.read (a + n)] := by
  induction n generalizing a with
  | zero => rfl
  | succ n ih =>
    rw [Memory.readBytes, ih, Memory.readBytes]
    simp only [List.cons_append]; rw [show a + 1 + n = a + (n + 1) by omega]

/-- A write at the end of a run of bytes adds its byte to the run. -/
theorem readBytes_write_end (m : Memory) (a n : Nat) (b : Byte) :
    (m.write (a + n) b).readBytes a (n + 1) = m.readBytes a n ++ [b] := by
  rw [readBytes_succ, read_write, if_pos rfl]
  congr 1
  refine readBytes_ext fun x _ h => ?_
  rw [read_write, if_neg (by omega)]

/-- Reading back what was written. -/
theorem readBytes_writeBytes (m : Memory) (a : Nat) (v : List Byte) :
    (m.writeBytes a v).readBytes a v.length = v := by
  refine List.ext_getElem (by simp) fun k h1 h2 => ?_
  have hk : a ≤ a + k ∧ a + k < a + v.length := by omega
  have h := readBytes_getD (m.writeBytes a v) a v.length k h2
  rw [read_writeBytes, if_pos hk, show a + k - a = k by omega] at h
  simpa [List.getD_eq_getElem?_getD, h1, h2] using h

end MemoryLaws

open MemoryLaws

/-- What a checked write can do (R64): it is inside the receive buffer, and it changes the buffer alone. -/
theorem memWrite_cases {c : Cfg} {addr : Nat} {v : List Byte} {s t : State} (h : memWrite c addr v s = .ok t) :
    addr + v.length ≤ c.maxFile ∧ t = { s with buffer := s.buffer.writeBytes addr v } := by
  unfold memWrite at h
  split at h
  · next hb => exact ⟨hb, (Except.ok.inj h).symm⟩
  · cases h

theorem memWrite_ok {c : Cfg} {addr : Nat} {v : List Byte} (s : State) (h : addr + v.length ≤ c.maxFile) :
    memWrite c addr v s = .ok { s with buffer := s.buffer.writeBytes addr v } := if_pos h

/-- What a checked read can do (R63). -/
theorem readSpace_cases {c : Cfg} {sp : Space} {addr n : Nat} {s : State} {v : List Byte}
    (h : readSpace c sp addr n s = .ok v) : addr + n ≤ capacity c sp ∧ v = (s.space sp).readBytes addr n := by
  unfold readSpace at h
  split at h
  · next hb => exact ⟨hb, (Except.ok.inj h).symm⟩
  · cases h

theorem readSpace_ok {c : Cfg} {sp : Space} {addr n : Nat} (s : State) (h : addr + n ≤ capacity c sp) :
    readSpace c sp addr n s = .ok ((s.space sp).readBytes addr n) := if_pos h

/-- A next state behind an access comes from the access's value. -/
theorem orFault_next {α : Type} {r : Except Fault α} {k : α → Host.Outcome State Fault Refusal} {t : State}
    (h : orFault r k = .next t) : ∃ a, r = .ok a ∧ k a = .next t := by
  cases r with
  | ok a => exact ⟨a, rfl, h⟩
  | error f => cases h

@[simp] theorem orFault_ok {α : Type} (a : α) (k : α → Host.Outcome State Fault Refusal) :
    orFault (.ok a) k = k a := rfl

@[simp] theorem orFault_error {α : Type} (f : Fault) (k : α → Host.Outcome State Fault Refusal) :
    orFault (.error f) k = .fault f := rfl

end Sys2Proof.Machine
end

