-- ==== Sys2Proof/Laws/State.lean ====
section
/-! SUPPORT. One lemma per field per named update of the state, so that no proof unfolds a record update. -/

namespace Sys2Proof.Machine

@[simp] theorem emit_asmState (s : State) (e : Event) : (s.emit e).asmState = s.asmState := rfl
@[simp] theorem emit_frameLen (s : State) (e : Event) : (s.emit e).frameLen = s.frameLen := rfl
@[simp] theorem emit_scratch (s : State) (e : Event) : (s.emit e).scratch = s.scratch := rfl
@[simp] theorem emit_active (s : State) (e : Event) : (s.emit e).active = s.active := rfl
@[simp] theorem emit_name (s : State) (e : Event) : (s.emit e).name = s.name := rfl
@[simp] theorem emit_nameLen (s : State) (e : Event) : (s.emit e).nameLen = s.nameLen := rfl
@[simp] theorem emit_declaredSize (s : State) (e : Event) : (s.emit e).declaredSize = s.declaredSize := rfl
@[simp] theorem emit_expectedPacketCount (s : State) (e : Event) : (s.emit e).expectedPacketCount = s.expectedPacketCount := rfl
@[simp] theorem emit_receivedPacketCount (s : State) (e : Event) : (s.emit e).receivedPacketCount = s.receivedPacketCount := rfl
@[simp] theorem emit_buffer (s : State) (e : Event) : (s.emit e).buffer = s.buffer := rfl
@[simp] theorem emit_rx (s : State) (e : Event) : (s.emit e).rx = s.rx := rfl
@[simp] theorem emit_trace (s : State) (e : Event) : (s.emit e).trace = s.trace ++ [e] := rfl

@[simp] theorem respond_asmState (c : Cfg) (k : ResponseKind) (s : State) : (respond c k s).asmState = s.asmState := rfl
@[simp] theorem respond_frameLen (c : Cfg) (k : ResponseKind) (s : State) : (respond c k s).frameLen = s.frameLen := rfl
@[simp] theorem respond_scratch (c : Cfg) (k : ResponseKind) (s : State) : (respond c k s).scratch = s.scratch := rfl
@[simp] theorem respond_active (c : Cfg) (k : ResponseKind) (s : State) : (respond c k s).active = s.active := rfl
@[simp] theorem respond_name (c : Cfg) (k : ResponseKind) (s : State) : (respond c k s).name = s.name := rfl
@[simp] theorem respond_nameLen (c : Cfg) (k : ResponseKind) (s : State) : (respond c k s).nameLen = s.nameLen := rfl
@[simp] theorem respond_declaredSize (c : Cfg) (k : ResponseKind) (s : State) : (respond c k s).declaredSize = s.declaredSize := rfl
@[simp] theorem respond_expectedPacketCount (c : Cfg) (k : ResponseKind) (s : State) : (respond c k s).expectedPacketCount = s.expectedPacketCount := rfl
@[simp] theorem respond_receivedPacketCount (c : Cfg) (k : ResponseKind) (s : State) : (respond c k s).receivedPacketCount = s.receivedPacketCount := rfl
@[simp] theorem respond_buffer (c : Cfg) (k : ResponseKind) (s : State) : (respond c k s).buffer = s.buffer := rfl
@[simp] theorem respond_rx (c : Cfg) (k : ResponseKind) (s : State) : (respond c k s).rx = s.rx := rfl
@[simp] theorem respond_trace (c : Cfg) (k : ResponseKind) (s : State) : (respond c k s).trace = s.trace ++ [.tx (responseFrame c k)] := rfl

@[simp] theorem sessionClear_asmState (s : State) : (sessionClear s).asmState = s.asmState := rfl
@[simp] theorem sessionClear_frameLen (s : State) : (sessionClear s).frameLen = s.frameLen := rfl
@[simp] theorem sessionClear_scratch (s : State) : (sessionClear s).scratch = s.scratch := rfl
@[simp] theorem sessionClear_active (s : State) : (sessionClear s).active = false := rfl
@[simp] theorem sessionClear_name (s : State) : (sessionClear s).name = Memory.zeros := rfl
@[simp] theorem sessionClear_nameLen (s : State) : (sessionClear s).nameLen = 0 := rfl
@[simp] theorem sessionClear_declaredSize (s : State) : (sessionClear s).declaredSize = 0 := rfl
@[simp] theorem sessionClear_expectedPacketCount (s : State) : (sessionClear s).expectedPacketCount = 0 := rfl
@[simp] theorem sessionClear_receivedPacketCount (s : State) : (sessionClear s).receivedPacketCount = 0 := rfl
@[simp] theorem sessionClear_buffer (s : State) : (sessionClear s).buffer = Memory.zeros := rfl
@[simp] theorem sessionClear_rx (s : State) : (sessionClear s).rx = s.rx := rfl
@[simp] theorem sessionClear_trace (s : State) : (sessionClear s).trace = s.trace := rfl

@[simp] theorem applyReset_asmState (s : State) : (applyReset s).asmState = .seekingHeader := rfl
@[simp] theorem applyReset_frameLen (s : State) : (applyReset s).frameLen = 0 := rfl
@[simp] theorem applyReset_scratch (s : State) : (applyReset s).scratch = Memory.zeros := rfl
@[simp] theorem applyReset_active (s : State) : (applyReset s).active = false := rfl
@[simp] theorem applyReset_name (s : State) : (applyReset s).name = Memory.zeros := rfl
@[simp] theorem applyReset_nameLen (s : State) : (applyReset s).nameLen = 0 := rfl
@[simp] theorem applyReset_declaredSize (s : State) : (applyReset s).declaredSize = 0 := rfl
@[simp] theorem applyReset_expectedPacketCount (s : State) : (applyReset s).expectedPacketCount = 0 := rfl
@[simp] theorem applyReset_receivedPacketCount (s : State) : (applyReset s).receivedPacketCount = 0 := rfl
@[simp] theorem applyReset_buffer (s : State) : (applyReset s).buffer = Memory.zeros := rfl
@[simp] theorem applyReset_rx (s : State) : (applyReset s).rx = s.rx := rfl
@[simp] theorem applyReset_trace (s : State) : (applyReset s).trace = s.trace := rfl

@[simp] theorem openSession_asmState (c : Cfg) (fn : List Byte) (n : Nat) (s : State) : (openSession c fn n s).asmState = s.asmState := rfl
@[simp] theorem openSession_frameLen (c : Cfg) (fn : List Byte) (n : Nat) (s : State) : (openSession c fn n s).frameLen = s.frameLen := rfl
@[simp] theorem openSession_scratch (c : Cfg) (fn : List Byte) (n : Nat) (s : State) : (openSession c fn n s).scratch = s.scratch := rfl
@[simp] theorem openSession_active (c : Cfg) (fn : List Byte) (n : Nat) (s : State) : (openSession c fn n s).active = true := rfl
@[simp] theorem openSession_name (c : Cfg) (fn : List Byte) (n : Nat) (s : State) : (openSession c fn n s).name = Memory.zeros.writeBytes 0 fn := rfl
@[simp] theorem openSession_nameLen (c : Cfg) (fn : List Byte) (n : Nat) (s : State) : (openSession c fn n s).nameLen = fn.length := rfl
@[simp] theorem openSession_declaredSize (c : Cfg) (fn : List Byte) (n : Nat) (s : State) : (openSession c fn n s).declaredSize = BitVec.ofNat 32 n := rfl
@[simp] theorem openSession_expectedPacketCount (c : Cfg) (fn : List Byte) (n : Nat) (s : State) : (openSession c fn n s).expectedPacketCount = packetCount c n := rfl
@[simp] theorem openSession_receivedPacketCount (c : Cfg) (fn : List Byte) (n : Nat) (s : State) : (openSession c fn n s).receivedPacketCount = 0 := rfl
@[simp] theorem openSession_buffer (c : Cfg) (fn : List Byte) (n : Nat) (s : State) : (openSession c fn n s).buffer = Memory.zeros := rfl
@[simp] theorem openSession_rx (c : Cfg) (fn : List Byte) (n : Nat) (s : State) : (openSession c fn n s).rx = s.rx := rfl
@[simp] theorem openSession_trace (c : Cfg) (fn : List Byte) (n : Nat) (s : State) : (openSession c fn n s).trace = s.trace := rfl

@[simp] theorem countPacket_asmState (c : Cfg) (s : State) : (countPacket c s).asmState = s.asmState := rfl
@[simp] theorem countPacket_frameLen (c : Cfg) (s : State) : (countPacket c s).frameLen = s.frameLen := rfl
@[simp] theorem countPacket_scratch (c : Cfg) (s : State) : (countPacket c s).scratch = s.scratch := rfl
@[simp] theorem countPacket_active (c : Cfg) (s : State) : (countPacket c s).active = s.active := rfl
@[simp] theorem countPacket_name (c : Cfg) (s : State) : (countPacket c s).name = s.name := rfl
@[simp] theorem countPacket_nameLen (c : Cfg) (s : State) : (countPacket c s).nameLen = s.nameLen := rfl
@[simp] theorem countPacket_declaredSize (c : Cfg) (s : State) : (countPacket c s).declaredSize = s.declaredSize := rfl
@[simp] theorem countPacket_expectedPacketCount (c : Cfg) (s : State) : (countPacket c s).expectedPacketCount = s.expectedPacketCount := rfl
@[simp] theorem countPacket_receivedPacketCount (c : Cfg) (s : State) : (countPacket c s).receivedPacketCount = (s.receivedPacketCount + 1) % 2 ^ c.countWidth := rfl
@[simp] theorem countPacket_buffer (c : Cfg) (s : State) : (countPacket c s).buffer = s.buffer := rfl
@[simp] theorem countPacket_rx (c : Cfg) (s : State) : (countPacket c s).rx = s.rx := rfl
@[simp] theorem countPacket_trace (c : Cfg) (s : State) : (countPacket c s).trace = s.trace := rfl

@[simp] theorem startFrame_asmState (c : Cfg) (s : State) : (startFrame c s).asmState = .accumulating := rfl
@[simp] theorem startFrame_frameLen (c : Cfg) (s : State) : (startFrame c s).frameLen = 1 := rfl
@[simp] theorem startFrame_scratch (c : Cfg) (s : State) : (startFrame c s).scratch = s.scratch.write 0 c.header := rfl
@[simp] theorem startFrame_active (c : Cfg) (s : State) : (startFrame c s).active = s.active := rfl
@[simp] theorem startFrame_name (c : Cfg) (s : State) : (startFrame c s).name = s.name := rfl
@[simp] theorem startFrame_nameLen (c : Cfg) (s : State) : (startFrame c s).nameLen = s.nameLen := rfl
@[simp] theorem startFrame_declaredSize (c : Cfg) (s : State) : (startFrame c s).declaredSize = s.declaredSize := rfl
@[simp] theorem startFrame_expectedPacketCount (c : Cfg) (s : State) : (startFrame c s).expectedPacketCount = s.expectedPacketCount := rfl
@[simp] theorem startFrame_receivedPacketCount (c : Cfg) (s : State) : (startFrame c s).receivedPacketCount = s.receivedPacketCount := rfl
@[simp] theorem startFrame_buffer (c : Cfg) (s : State) : (startFrame c s).buffer = s.buffer := rfl
@[simp] theorem startFrame_rx (c : Cfg) (s : State) : (startFrame c s).rx = s.rx := rfl
@[simp] theorem startFrame_trace (c : Cfg) (s : State) : (startFrame c s).trace = s.trace := rfl

@[simp] theorem releaseFrame_asmState (s : State) : (releaseFrame s).asmState = .seekingHeader := rfl
@[simp] theorem releaseFrame_frameLen (s : State) : (releaseFrame s).frameLen = 0 := rfl
@[simp] theorem releaseFrame_scratch (s : State) : (releaseFrame s).scratch = s.scratch := rfl
@[simp] theorem releaseFrame_active (s : State) : (releaseFrame s).active = s.active := rfl
@[simp] theorem releaseFrame_name (s : State) : (releaseFrame s).name = s.name := rfl
@[simp] theorem releaseFrame_nameLen (s : State) : (releaseFrame s).nameLen = s.nameLen := rfl
@[simp] theorem releaseFrame_declaredSize (s : State) : (releaseFrame s).declaredSize = s.declaredSize := rfl
@[simp] theorem releaseFrame_expectedPacketCount (s : State) : (releaseFrame s).expectedPacketCount = s.expectedPacketCount := rfl
@[simp] theorem releaseFrame_receivedPacketCount (s : State) : (releaseFrame s).receivedPacketCount = s.receivedPacketCount := rfl
@[simp] theorem releaseFrame_buffer (s : State) : (releaseFrame s).buffer = s.buffer := rfl
@[simp] theorem releaseFrame_rx (s : State) : (releaseFrame s).rx = s.rx := rfl
@[simp] theorem releaseFrame_trace (s : State) : (releaseFrame s).trace = s.trace := rfl

@[simp] theorem offer_asmState (s : State) (l : List Input) : (s.offer l).asmState = s.asmState := rfl
@[simp] theorem offer_frameLen (s : State) (l : List Input) : (s.offer l).frameLen = s.frameLen := rfl
@[simp] theorem offer_scratch (s : State) (l : List Input) : (s.offer l).scratch = s.scratch := rfl
@[simp] theorem offer_active (s : State) (l : List Input) : (s.offer l).active = s.active := rfl
@[simp] theorem offer_name (s : State) (l : List Input) : (s.offer l).name = s.name := rfl
@[simp] theorem offer_nameLen (s : State) (l : List Input) : (s.offer l).nameLen = s.nameLen := rfl
@[simp] theorem offer_declaredSize (s : State) (l : List Input) : (s.offer l).declaredSize = s.declaredSize := rfl
@[simp] theorem offer_expectedPacketCount (s : State) (l : List Input) : (s.offer l).expectedPacketCount = s.expectedPacketCount := rfl
@[simp] theorem offer_receivedPacketCount (s : State) (l : List Input) : (s.offer l).receivedPacketCount = s.receivedPacketCount := rfl
@[simp] theorem offer_buffer (s : State) (l : List Input) : (s.offer l).buffer = s.buffer := rfl
@[simp] theorem offer_rx (s : State) (l : List Input) : (s.offer l).rx = s.rx ++ l := rfl
@[simp] theorem offer_trace (s : State) (l : List Input) : (s.offer l).trace = s.trace := rfl

@[simp] theorem raise_asmState (c : Cfg) (e : ErrorCode) (info : List Nat) (s : State) :
    (raise c e info s).asmState = s.asmState := by cases e <;> rfl
@[simp] theorem raise_frameLen (c : Cfg) (e : ErrorCode) (info : List Nat) (s : State) :
    (raise c e info s).frameLen = s.frameLen := by cases e <;> rfl
@[simp] theorem raise_scratch (c : Cfg) (e : ErrorCode) (info : List Nat) (s : State) :
    (raise c e info s).scratch = s.scratch := by cases e <;> rfl
@[simp] theorem raise_active (c : Cfg) (e : ErrorCode) (info : List Nat) (s : State) :
    (raise c e info s).active = s.active := by cases e <;> rfl
@[simp] theorem raise_name (c : Cfg) (e : ErrorCode) (info : List Nat) (s : State) :
    (raise c e info s).name = s.name := by cases e <;> rfl
@[simp] theorem raise_nameLen (c : Cfg) (e : ErrorCode) (info : List Nat) (s : State) :
    (raise c e info s).nameLen = s.nameLen := by cases e <;> rfl
@[simp] theorem raise_declaredSize (c : Cfg) (e : ErrorCode) (info : List Nat) (s : State) :
    (raise c e info s).declaredSize = s.declaredSize := by cases e <;> rfl
@[simp] theorem raise_expectedPacketCount (c : Cfg) (e : ErrorCode) (info : List Nat) (s : State) :
    (raise c e info s).expectedPacketCount = s.expectedPacketCount := by cases e <;> rfl
@[simp] theorem raise_receivedPacketCount (c : Cfg) (e : ErrorCode) (info : List Nat) (s : State) :
    (raise c e info s).receivedPacketCount = s.receivedPacketCount := by cases e <;> rfl
@[simp] theorem raise_buffer (c : Cfg) (e : ErrorCode) (info : List Nat) (s : State) :
    (raise c e info s).buffer = s.buffer := by cases e <;> rfl
@[simp] theorem raise_rx (c : Cfg) (e : ErrorCode) (info : List Nat) (s : State) :
    (raise c e info s).rx = s.rx := by cases e <;> rfl

/-- What `raise` adds to the trace: the diagnostic, then the error's response where it has one (R221). -/
theorem raise_trace (c : Cfg) (e : ErrorCode) (info : List Nat) (s : State) :
    (raise c e info s).trace = s.trace ++ Event.diag e info ::
      (match e.response with
        | some k => [.tx (responseFrame c k)]
        | none => []) := by
  cases e <;> simp [raise, respondIfAny, ErrorCode.response, ErrorCode.errorClass]

@[simp] theorem warnCount_asmState (n : Nat) (s : State) : (warnCount n s).asmState = s.asmState := by
  unfold warnCount; split <;> rfl
@[simp] theorem warnCount_frameLen (n : Nat) (s : State) : (warnCount n s).frameLen = s.frameLen := by
  unfold warnCount; split <;> rfl
@[simp] theorem warnCount_scratch (n : Nat) (s : State) : (warnCount n s).scratch = s.scratch := by
  unfold warnCount; split <;> rfl
@[simp] theorem warnCount_active (n : Nat) (s : State) : (warnCount n s).active = s.active := by
  unfold warnCount; split <;> rfl
@[simp] theorem warnCount_name (n : Nat) (s : State) : (warnCount n s).name = s.name := by
  unfold warnCount; split <;> rfl
@[simp] theorem warnCount_nameLen (n : Nat) (s : State) : (warnCount n s).nameLen = s.nameLen := by
  unfold warnCount; split <;> rfl
@[simp] theorem warnCount_declaredSize (n : Nat) (s : State) : (warnCount n s).declaredSize = s.declaredSize := by
  unfold warnCount; split <;> rfl
@[simp] theorem warnCount_expectedPacketCount (n : Nat) (s : State) : (warnCount n s).expectedPacketCount = s.expectedPacketCount := by
  unfold warnCount; split <;> rfl
@[simp] theorem warnCount_receivedPacketCount (n : Nat) (s : State) : (warnCount n s).receivedPacketCount = s.receivedPacketCount := by
  unfold warnCount; split <;> rfl
@[simp] theorem warnCount_buffer (n : Nat) (s : State) : (warnCount n s).buffer = s.buffer := by
  unfold warnCount; split <;> rfl
@[simp] theorem warnCount_rx (n : Nat) (s : State) : (warnCount n s).rx = s.rx := by
  unfold warnCount; split <;> rfl

/-- What the count warning adds to the trace (R184). -/
theorem warnCount_trace (n : Nat) (s : State) :
    (warnCount n s).trace = s.trace ++
      (if n = s.receivedPacketCount then [] else [.diag .endCountMismatch [n, s.receivedPacketCount]]) := by
  unfold warnCount; split <;> simp

end Sys2Proof.Machine
end

