-- ==== Sys2Proof/Laws/Handlers.lean ====
section
/-! SUPPORT. What each shared operation can do when it answers a next state, said once: the handlers, the dispatcher and the
assembler (42_commands.md, 41_frame_assembler.md). -/

namespace Sys2Proof.Machine

/-- What the FILE_START handler can do (R161): refuse the frame and leave the session, open a session, or clear it. -/
theorem startHandler_cases {c : Cfg} {F : List Byte} {s t : State} (h : startHandler c F s = .next t) :
    (∃ e info, e.response = some .nack ∧ t = raise c e info s) ∨
    (filenameLenOf F ≤ c.maxName - 1 ∧ filenameLenOf F + 8 ≤ F.length ∧ fileSizeOf F ≤ c.maxFile ∧
      (checksumOK F = true ∧ t = respond c .ready (openSession c (filenameOf F) (fileSizeOf F) s) ∨
       checksumOK F = false ∧ t = raise c .startChecksum [(receivedChecksum F).toNat, (computedChecksum F).toNat]
         (sessionClear (openSession c (filenameOf F) (fileSizeOf F) s)))) := by
  simp only [startHandler] at h
  split at h
  · exact .inl ⟨_, _, rfl, (Host.Outcome.next.inj h).symm⟩
  split at h
  · exact .inl ⟨_, _, rfl, (Host.Outcome.next.inj h).symm⟩
  split at h
  · exact .inl ⟨_, _, rfl, (Host.Outcome.next.inj h).symm⟩
  split at h
  · exact .inl ⟨_, _, rfl, (Host.Outcome.next.inj h).symm⟩
  refine .inr ⟨by omega, by omega, by omega, ?_⟩
  have ht := (Host.Outcome.next.inj h).symm
  unfold verifyStart at ht
  split at ht
  · next hc => exact .inl ⟨hc, ht⟩
  · next hc => exact .inr ⟨by simpa using hc, ht⟩

/-- What the FILE_DATA handler can do (R170): refuse the frame; or, inside the buffer, write the payload and count it, or
refuse the frame on its checksum, with the payload written or not as the parameter says. -/
theorem dataHandler_cases {c : Cfg} {F : List Byte} {s t : State} (h : dataHandler c F s = .next t) :
    (∃ e info, e.response = some .nack ∧ t = raise c e info s) ∨
    (s.active = true ∧ dataLenOf F + 6 ≤ F.length ∧ 1 ≤ seqNumOf F ∧
      packetOffset c (seqNumOf F) + dataLenOf F ≤ c.maxFile ∧
      let stored : State := { s with buffer := s.buffer.writeBytes (packetOffset c (seqNumOf F)) (dataOf F) }
      (checksumOK F = true ∧ t = respond c .ack (countPacket c stored) ∨
       checksumOK F = false ∧
        t = raise c .dataChecksum [seqNumOf F] (if c.writeBeforeVerify then stored else s))) := by
  simp only [dataHandler] at h
  split at h
  · exact .inl ⟨_, _, rfl, (Host.Outcome.next.inj h).symm⟩
  split at h
  · exact .inl ⟨_, _, rfl, (Host.Outcome.next.inj h).symm⟩
  split at h
  · exact .inl ⟨_, _, rfl, (Host.Outcome.next.inj h).symm⟩
  split at h
  · exact .inl ⟨_, _, rfl, (Host.Outcome.next.inj h).symm⟩
  split at h
  · exact .inl ⟨_, _, rfl, (Host.Outcome.next.inj h).symm⟩
  split at h
  · exact .inl ⟨_, _, rfl, (Host.Outcome.next.inj h).symm⟩
  next ha _ _ hl hs hb =>
  refine .inr ⟨by simpa using ha, by omega, by omega, by omega, ?_⟩
  obtain ⟨s₁, h₁, h⟩ := orFault_next h
  cases hw : c.writeBeforeVerify <;> simp only [hw, copyPayload, Bool.not_true, Bool.not_false, if_true] at h₁ h
  · cases h₁
    split at h
    · next hc =>
      obtain ⟨s₂, h₂, h⟩ := orFault_next h
      obtain ⟨-, rfl⟩ := memWrite_cases h₂
      exact .inl ⟨hc, (Host.Outcome.next.inj h).symm⟩
    · next hc => exact .inr ⟨by simpa using hc, (Host.Outcome.next.inj h).symm⟩
  · obtain ⟨-, rfl⟩ := memWrite_cases h₁
    split at h
    · next hc => exact .inl ⟨hc, (Host.Outcome.next.inj h).symm⟩
    · next hc => exact .inr ⟨by simpa using hc, (Host.Outcome.next.inj h).symm⟩

/-- What the FILE_END handler can do (R180): refuse the frame; clear the session on a bad checksum; or store the file,
acknowledge and clear the session. -/
theorem endHandler_cases {c : Cfg} {F : List Byte} {s t : State} (h : endHandler c F s = .next t) :
    (∃ e info, e.response = some .nack ∧ t = raise c e info s) ∨
    (s.active = true ∧ checksumOK F = false ∧
      t = raise c .endChecksum [(receivedChecksum F).toNat, (computedChecksum F).toNat] (sessionClear s)) ∨
    (s.active = true ∧ checksumOK F = true ∧ s.nameLen ≤ c.maxName ∧ s.declaredSize.toNat ≤ c.maxFile ∧
      t = sessionClear (respond c .ack ((warnCount (totalPacketsOf F) s).emit
        (.store (s.name.readBytes 0 s.nameLen) (s.buffer.readBytes 0 s.declaredSize.toNat) s.declaredSize.toNat)))) := by
  simp only [endHandler] at h
  split at h
  · exact .inl ⟨_, _, rfl, (Host.Outcome.next.inj h).symm⟩
  split at h
  · exact .inl ⟨_, _, rfl, (Host.Outcome.next.inj h).symm⟩
  next ha _ =>
  split at h
  · next hc => exact .inr (.inl ⟨by simpa using ha, hc, (Host.Outcome.next.inj h).symm⟩)
  · next hc =>
    obtain ⟨n, hn, h⟩ := orFault_next h
    obtain ⟨d, hd, h⟩ := orFault_next h
    obtain ⟨hnl, rfl⟩ := readSpace_cases hn
    obtain ⟨hdl, rfl⟩ := readSpace_cases hd
    refine .inr (.inr ⟨by simpa using ha, by simpa using hc, by simpa [capacity] using hnl,
      by simpa [capacity] using hdl, ?_⟩)
    rw [← Host.Outcome.next.inj h]
    simp [State.space]

/-- What the dispatcher can do (R160). -/
theorem dispatch_cases (c : Cfg) (F : List Byte) (s : State) :
    (commandOf F = c.cmdFileStart ∧ dispatch c F s = startHandler c F s) ∨
    (commandOf F = c.cmdFileData ∧ dispatch c F s = dataHandler c F s) ∨
    (commandOf F = c.cmdFileEnd ∧ dispatch c F s = endHandler c F s) ∨
    dispatch c F s = .next (raise c .unknownCommand [(commandOf F).toNat] s) := by
  unfold dispatch
  split
  · exact .inl ⟨‹_›, rfl⟩
  split
  · exact .inr (.inl ⟨‹_›, rfl⟩)
  split
  · exact .inr (.inr (.inl ⟨‹_›, rfl⟩))
  · exact .inr (.inr (.inr rfl))

/-- The partial frame after a byte has been stored (R133). -/
theorem partialFrame_store (s : State) (b : Byte) :
    partialFrame { s with scratch := s.scratch.write s.frameLen b, frameLen := s.frameLen + 1 } =
      partialFrame s ++ [b] := by
  have := MemoryLaws.readBytes_write_end s.scratch 0 s.frameLen b
  simpa [partialFrame] using this

@[simp] theorem partialFrame_length (s : State) : (partialFrame s).length = s.frameLen := by
  simp [partialFrame]

/-- The state behind the byte stored (R133). -/
def stored (b : Byte) (s : State) : State :=
  { s with scratch := s.scratch.write s.frameLen b, frameLen := s.frameLen + 1 }

/-- `Step` takes a byte by `ingest`. -/
theorem takeInput_byte {c : Cfg} {run : Runner} {s : State} {b : Byte} {rest : List Input}
    (h : s.rx = .byte b :: rest) : takeInput c run s = ingest c run b { s with rx := rest } := by
  simp only [takeInput, h]

/-- `Step` for a `cfg` that meets R10. -/
theorem stepWith_valid {c : Cfg} (hc : c.valid = true) (s : State) :
    stepWith c s = takeInput c (dispatch c) s := by
  simp only [stepWith, hc, if_true]

/-- A byte that is stored (R133): the frame is run where it is complete (R135). -/
theorem ingest_store {c : Cfg} {run : Runner} {b : Byte} {s : State} (ha : s.asmState = .accumulating)
    (hl : s.frameLen < c.maxFrame) :
    ingest c run b s =
      if expectedLen c (partialFrame s ++ [b]) = some (s.frameLen + 1) then
        run (partialFrame s ++ [b]) (releaseFrame (stored b s))
      else .next (stored b s) := by
  have hne : s.frameLen ≠ c.maxFrame := Nat.ne_of_lt hl
  simp only [ingest, ha, hne, if_false, storeByte, capacity, hl, if_true, orFault_ok, completeFrame, stored]
  rw [← ha, partialFrame_store]

/-- The four cases of one byte (R130 to R135). -/
theorem ingest_cases {c : Cfg} {run : Runner} {b : Byte} {s t : State} (h : ingest c run b s = .next t) :
    (s.asmState = .seekingHeader ∧ t = seek c b s) ∨
    (s.asmState = .accumulating ∧ s.frameLen = c.maxFrame ∧ t = overflow c b s) ∨
    (s.asmState = .accumulating ∧ s.frameLen < c.maxFrame ∧
      (expectedLen c (partialFrame s ++ [b]) = some (s.frameLen + 1) ∧
        run (partialFrame s ++ [b]) (releaseFrame (stored b s)) = .next t ∨
       expectedLen c (partialFrame s ++ [b]) ≠ some (s.frameLen + 1) ∧ t = stored b s)) := by
  unfold ingest at h
  split at h
  · exact .inl ⟨‹_›, (Host.Outcome.next.inj h).symm⟩
  next ha =>
  split at h
  · exact .inr (.inl ⟨ha, ‹_›, (Host.Outcome.next.inj h).symm⟩)
  next hne =>
  obtain ⟨s₁, h₁, h⟩ := orFault_next h
  unfold storeByte at h₁
  split at h₁
  · next hlt =>
    refine .inr (.inr ⟨ha, hlt, ?_⟩)
    cases h₁
    unfold completeFrame at h
    rw [partialFrame_store] at h
    split at h
    · exact .inl ⟨‹_›, h⟩
    · exact .inr ⟨‹_›, (Host.Outcome.next.inj h).symm⟩
  · cases h₁

end Sys2Proof.Machine
end

