-- ==== Sys2Proof/Laws/PerInstr.lean ====
section
/-! SUPPORT. Statements made for every instruction, one lemma per constructor. -/

namespace Sys2Proof.Laws

/-- Every frame starts with the header marker and has at least three bytes (30_encoding.md R90). -/
def FrameForm.Statement (i : Instr) : Prop :=
  ∀ c : Cfg, byteAt (encodeWith c i) 0 = c.header ∧ 3 ≤ (encodeWith c i).length

theorem FrameForm.fileStart (filename : List Byte) (fileSize : Quad) (checksum : Byte) :
    FrameForm.Statement (.fileStart filename fileSize checksum) := fun _ => ⟨rfl, by simp [layoutLength]⟩

theorem FrameForm.fileData (seqNum : Half) (data : List Byte) (checksum : Byte) :
    FrameForm.Statement (.fileData seqNum data checksum) := fun _ => ⟨rfl, by simp [layoutLength]⟩

theorem FrameForm.fileEnd (totalPackets : Half) (checksum : Byte) :
    FrameForm.Statement (.fileEnd totalPackets checksum) := fun _ => ⟨rfl, by simp [layoutLength]⟩

theorem FrameForm.ack (checksum : Byte) : FrameForm.Statement (.ack checksum) :=
  fun _ => ⟨rfl, by simp [layoutLength]⟩

theorem FrameForm.nack (checksum : Byte) : FrameForm.Statement (.nack checksum) :=
  fun _ => ⟨rfl, by simp [layoutLength]⟩

theorem FrameForm.ready (checksum : Byte) : FrameForm.Statement (.ready checksum) :=
  fun _ => ⟨rfl, by simp [layoutLength]⟩

end Sys2Proof.Laws
end

