-- ==== Sys2Proof/Laws/Run.lean ====
section
/-! SUPPORT. Runs of several steps or instructions, taken apart one at a time (00_scope.md R15). -/

namespace Sys2Proof.Machine

/-- A run of a machine goes on from the state its first step leaves. -/
theorem coreRun_next (M : Host.Core) {k : Nat} {s t : M.State} (h : M.step s = .next t) :
    M.run (k + 1) s = M.run k t := by
  simp only [Host.Core.run, h]

/-- A run of a machine stops where its first step faults. -/
theorem coreRun_fault (M : Host.Core) {k : Nat} {s : M.State} {f : M.Fault} (h : M.step s = .fault f) :
    M.run (k + 1) s = .fault f := by
  simp only [Host.Core.run, h]

/-- A run of a machine stops where its first step is refused. -/
theorem coreRun_refused (M : Host.Core) {k : Nat} {s : M.State} {r : M.Refusal} (h : M.step s = .refused r) :
    M.run (k + 1) s = .refused r := by
  simp only [Host.Core.run, h]

/-- No instruction. -/
@[simp] theorem execAll_nil (s : State) : execAll [] s = .next s := rfl

/-- One instruction, and then the others. -/
theorem execAll_next {i : Instr} {is : List Instr} {s t : State} (h : exec i s = .next t) :
    execAll (i :: is) s = execAll is t := by
  simp only [execAll, h]

/-- No step. -/
@[simp] theorem runSteps_zero (s : State) : runSteps 0 s = .next s := rfl

/-- One step, and then the rest of the run. -/
theorem runSteps_next {k : Nat} {s t : State} (h : step s = .next t) : runSteps (k + 1) s = runSteps k t :=
  coreRun_next Sys2Proof.core (s := s) (t := t) h

/-- What the first step of a run can be, where the run answers a next state. -/
theorem runSteps_cases {k : Nat} {s t : State} (h : runSteps (k + 1) s = .next t) :
    ∃ s₁, step s = .next s₁ ∧ runSteps k s₁ = .next t := by
  cases hs : step s with
  | next s₁ => exact ⟨s₁, rfl, by rwa [runSteps_next hs] at h⟩
  | fault f => exact nomatch (coreRun_fault Sys2Proof.core (s := s) (f := f) hs).symm.trans h
  | refused r => exact nomatch (coreRun_refused Sys2Proof.core (s := s) (r := r) hs).symm.trans h

/-- A run of one step. -/
theorem runSteps_one (s : State) : runSteps 1 s = step s := by
  cases hs : step s with
  | next s₁ => rw [runSteps_next hs, runSteps_zero]
  | fault f => exact coreRun_fault Sys2Proof.core (s := s) (f := f) hs
  | refused r => exact coreRun_refused Sys2Proof.core (s := s) (r := r) hs

/-- A run of `n + m` steps is a run of `n` and then a run of `m`. -/
theorem runSteps_add {n m : Nat} {s t : State} (h : runSteps n s = .next t) :
    runSteps (n + m) s = runSteps m t := by
  induction n generalizing s with
  | zero => cases h; rw [Nat.zero_add]
  | succ n ih =>
    obtain ⟨s₁, h₁, h⟩ := runSteps_cases h
    rw [show n + 1 + m = (n + m) + 1 by omega, runSteps_next h₁, ih h]

end Sys2Proof.Machine
end

