-- ==== Sys2Proof/Tests/Slice0.lean ====
section
/-! SUPPORT. Tests: the well-formedness checks, words written out from the layouts, single steps whose results stand in
95_test_vectors.md, and for every obligation with hypotheses a state and operands that meet them. -/

namespace Sys2Proof.Tests

open Sys2Proof.Machine

/-! Helpers -/

/-- The state after a step, where there is one. -/
def after {σ : Type} (o : Host.Outcome σ Fault Refusal) : Option σ :=
  match o with
  | .next s => some s
  | .fault _ => none
  | .refused _ => none

/-- A step that leaves a state answers next. -/
theorem next_of_after {σ : Type} {o : Host.Outcome σ Fault Refusal} (h : (after o).isSome = true) :
    ∃ t, o = .next t := by
  cases o with
  | next t => exact ⟨t, rfl⟩
  | fault f => cases h
  | refused r => cases h

/-- A step whose next state has a property that can be tested. -/
theorem next_with {σ : Type} {o : Host.Outcome σ Fault Refusal} {P : σ → Bool} (h : (after o).any P = true) :
    ∃ t, o = .next t ∧ P t = true := by
  cases o with
  | next t => exact ⟨t, rfl, h⟩
  | fault f => cases h
  | refused r => cases h

/-- `a.txt`, the filename of the vectors. -/
def aTxt : List Byte := [0x61, 0x2E, 0x74, 0x78, 0x74]

/-- An open session for `a.txt` with one byte of a file of two received. -/
def open2 : State :=
  { State.reset with
    active := true
    name := Memory.zeros.writeBytes 0 aTxt
    nameLen := 5
    declaredSize := 2
    expectedPacketCount := 1
    receivedPacketCount := 1
    buffer := [(0, 0x41)] }

/-- `s` with the bytes `P` in `Scratch` as the partial frame and the byte `b` as the next input. -/
def partway (P : List Byte) (b : Byte) (s : State) : State :=
  { s with asmState := .accumulating, frameLen := P.length, scratch := Memory.zeros.writeBytes 0 P, rx := [.byte b] }

def txAck : Event := .tx [0x81, 0x93, 0x14]
def txNack : Event := .tx [0x81, 0x94, 0x15]
def txReady : Event := .tx [0x81, 0x95, 0x16]

/-! Well-formedness: each check refuses a term (30_encoding.md R92, R93, R95) -/

theorem test_name_of_255_is_wellFormed :
    (Instr.fileStart (List.replicate 255 0x61) 0 0).wellFormed Cfg.device = true := by decide +kernel

theorem test_name_of_256_is_refused :
    (Instr.fileStart (List.replicate 256 0x61) 0 0).wellFormed Cfg.device = false := by decide +kernel

theorem test_data_of_256_is_refused :
    (Instr.fileData 1 (List.replicate 256 0x61) 0).wellFormed Cfg.device = false := by decide +kernel

theorem test_ack_checksum_is_fixed :
    (Instr.ack 0x14).wellFormed Cfg.device = true ∧ (Instr.ack 0x15).wellFormed Cfg.device = false := by decide

theorem test_nack_checksum_is_fixed :
    (Instr.nack 0x15).wellFormed Cfg.device = true ∧ (Instr.nack 0x14).wellFormed Cfg.device = false := by decide

theorem test_ready_checksum_is_fixed :
    (Instr.ready 0x16).wellFormed Cfg.device = true ∧ (Instr.ready 0x00).wellFormed Cfg.device = false := by decide

/-! Decoding: the words are written out from the layouts R92 to R95; the fields tell the byte order apart -/

theorem test_decode_fileStart :
    decode [0x81, 0x90, 0x02, 0x61, 0x62, 0x01, 0x02, 0x03, 0x04, 0x99] =
      .ok (.fileStart [0x61, 0x62] 0x01020304 0x99, []) := by decide

theorem test_decode_fileData :
    decode [0x81, 0x91, 0x12, 0x34, 0x02, 0xAA, 0xBB, 0x99, 0x77] = .ok (.fileData 0x1234 [0xAA, 0xBB] 0x99, [0x77]) := by
  decide

theorem test_decode_fileEnd : decode [0x81, 0x92, 0x12, 0x34, 0x99] = .ok (.fileEnd 0x1234 0x99, []) := by decide

theorem test_decode_responses :
    decode [0x81, 0x93, 0x14] = .ok (.ack 0x14, []) ∧ decode [0x81, 0x94, 0x15] = .ok (.nack 0x15, []) ∧
      decode [0x81, 0x95, 0x16] = .ok (.ready 0x16, []) := by decide

theorem test_decode_rejects_by_name :
    decode [] = .error .noByte ∧ decode [0x80, 0x92] = .error (.badHeader 0x80) ∧ decode [0x81] = .error .noCommand ∧
      decode [0x81, 0x96, 0x00] = .error (.unknownCommand 0x96) ∧
      decode [0x81, 0x92, 0x00] = .error (.truncated 3 5) := by decide

/-- The rows of spec/opcode_table.json, operand bits zero. -/
theorem test_table_words :
    decodeTableWord 16 0x8190 = some (.fileStart [] 0 0) ∧ decodeTableWord 16 0x8191 = some (.fileData 0 [] 0) ∧
      decodeTableWord 16 0x8192 = some (.fileEnd 0 0) ∧ decodeTableWord 16 0x8193 = some (.ack 0) ∧
      decodeTableWord 16 0x8194 = some (.nack 0) ∧ decodeTableWord 16 0x8195 = some (.ready 0) ∧
      decodeTableWord 16 0x8196 = none := by decide +kernel

/-- A table word as the first instruction after reset: FILE_START with a checksum of 0 is refused (R166). -/
theorem test_first_instruction_fileStart :
    (after (step (State.reset.withFetchWord 16 0x8190))).map (·.trace) =
      some [.diag .startChecksum [0x00, 0x11], txNack] := by decide +kernel

/-- A response frame among the input bytes is stored and not run (R99, R215). -/
theorem test_received_ack_is_swallowed :
    (after (step (State.reset.withFetchWord 16 0x8193))).map (fun t => (t.asmState, t.frameLen, t.trace)) =
      some (.accumulating, 3, []) := by decide +kernel

/-! Single steps -/

/-- 95_test_vectors.md, scenario 1: `a.txt` of 10 bytes is accepted. -/
theorem test_fileStart_accepted :
    (after (step (partway [0x81, 0x90, 0x05, 0x61, 0x2E, 0x74, 0x78, 0x74, 0x00, 0x00, 0x00, 0x0A] 0x0F State.reset))).map
        (fun t => (t.active, t.nameLen, t.declaredSize, t.expectedPacketCount, t.trace)) =
      some (true, 5, 10, 1, [txReady]) := by decide

/-- 95_test_vectors.md, scenario 4: a declared size of 20000 is refused. -/
theorem test_fileStart_size_refused :
    (after (exec (.fileStart aTxt 20000 0x73) open2)).map (fun t => (t.active, t.trace)) =
      some (true, [.diag .startSizeTooLarge [20000], txNack]) := by decide

/-- 95_test_vectors.md, D-c and D-b: the last slot takes no byte past the buffer's end, and an empty packet there fits. -/
theorem test_fileData_bounds :
    (after (exec (.fileData 41 [0x01] 0x3D) open2)).map (·.trace) =
        some [.diag .dataOutOfBounds [10240, 1], txNack] ∧
      (after (exec (.fileData 41 [] 0x3B) open2)).map (·.trace) = some [txAck] := by decide

/-- 95_test_vectors.md, D-h: a corrupted packet's payload is written all the same (R175), at 512 for packet 3. -/
theorem test_fileData_write_before_verify :
    (after (exec (.fileData 3 [0x09, 0x08] 0x00) open2)).map (fun t => (t.buffer, t.receivedPacketCount, t.trace)) =
      some ([(0, 0x41), (512, 0x09), (513, 0x08)], 1, [.diag .dataChecksum [3], txNack]) := by decide

/-- FILE_END stores the declared size, a byte that no packet wrote included (R181, R185), and warns of a wrong count (R184). -/
theorem test_fileEnd_stores :
    (after (exec (.fileEnd 2 0x15) open2)).map (fun t => (t.active, t.buffer, t.trace)) =
      some (false, [], [.diag .endCountMismatch [2, 1], .store aTxt [0x41, 0x00] 2, txAck]) := by decide

/-- 95_test_vectors.md, E-d: without a session the checksum is not looked at (R182). -/
theorem test_fileEnd_without_session :
    (after (exec (.fileEnd 1 0x99) State.reset)).map (·.trace) = some [.diag .endNoSession [], txNack] := by decide

theorem test_ack_sends : (after (exec (.ack 0) State.reset)).map (·.trace) = some [txAck] := by decide

theorem test_nack_sends : (after (exec (.nack 0) State.reset)).map (·.trace) = some [txNack] := by decide

theorem test_ready_sends : (after (exec (.ready 0) State.reset)).map (·.trace) = some [txReady] := by decide

/-- 95_test_vectors.md, A2: the 257th byte of an unfinished frame is dropped, a header too. -/
theorem test_overflow_drops :
    (after (step { State.reset with asmState := .accumulating, frameLen := 256, rx := [.byte 0x81] })).map
        (fun t => (t.asmState, t.frameLen, t.trace)) =
      some (.seekingHeader, 0, [.diag .frameOverflow [0x81]]) := by decide

/-- 95_test_vectors.md, A3: under REEXAMINE the same byte starts a frame. -/
theorem test_overflow_reexamines :
    (after (stepWith { Cfg.device with overflowPolicy := .reexamine }
        { State.reset with asmState := .accumulating, frameLen := 256, rx := [.byte 0x81] })).map
        (fun t => (t.asmState, t.frameLen, t.trace)) =
      some (.accumulating, 1, [.diag .frameOverflow [0x81]]) := by decide

/-- R261: a reset takes the session away and no event back. -/
theorem test_reset_step :
    after (step { open2 with rx := [.reset], trace := [txAck] }) = some { State.reset with trace := [txAck] } := by decide

theorem test_reset_memories_wf :
    State.reset.scratch.wf ∧ State.reset.name.wf ∧ State.reset.buffer.wf := by decide

/-- R222: the codes and classes of three errors and of the warning. -/
theorem test_error_codes :
    (ErrorCode.frameOverflow.number, ErrorCode.dataSeqZero.number, ErrorCode.endChecksum.number,
        ErrorCode.endCountMismatch.number) = (1, 9, 14, 15) ∧
      ErrorCode.dataSeqZero.errorClass = .capacity ∧ ErrorCode.endCountMismatch.response = none := by decide

/-- The port of `diag` at the largest payload address (R84). -/
theorem test_diag_port : diagSignals 0 .dataOutOfBounds [10240, 1] = ⟨10, 10240, 1⟩ := by decide

/-! Witnesses: the hypotheses of every obligation that has some are met together -/

theorem witness_DecodeEncodeRoundTrip :
    Cfg.device.valid = true ∧ (Instr.fileStart (List.replicate 255 0x61) 0xFFFFFFFF 0).wellFormed Cfg.device = true ∧
      (Instr.fileData 0xFFFF (List.replicate 255 0x61) 0).wellFormed Cfg.device = true ∧
      (Instr.fileEnd 0xFFFF 0).wellFormed Cfg.device = true := by decide +kernel

theorem witness_EncodeDecodeRoundTrip :
    decodeWith Cfg.device [0x81, 0x91, 0x00, 0x01, 0x01, 0x5A, 0x00, 0x81] =
      .ok (.fileData 1 [0x5A] 0x00, [0x81]) := by decide

theorem witness_CutFrameIsTruncated :
    Cfg.device.valid = true ∧ (Instr.fileStart aTxt 10 0x0F).wellFormed Cfg.device = true ∧ 2 ≤ 12 ∧
      12 < layoutLength (Instr.fileStart aTxt 10 0x0F) := by decide

theorem witness_LengthKnownFromItsPosition :
    Cfg.device.valid = true ∧
      ((List.replicate 255 (0x61 : Byte)).length ≤ 255 ∧ 263 ≤ (List.replicate 255 (0x61 : Byte)).length + 8) ∧
      ((List.replicate 255 (0x61 : Byte)).length ≤ 255 ∧ 261 ≤ (List.replicate 255 (0x61 : Byte)).length + 6) ∧
      (5 ≤ 5) ∧ (Instr.ready 0x16).isCommand = false := by decide +kernel

theorem witness_CompletionIsExact :
    ((∀ E', expectedLen Cfg.device [0x81, 0x92, 0x00, 0x01] = some E' → [0x81, 0x92, 0x00, 0x01].length < E') ∧
      expectedLen Cfg.device ([0x81, 0x92, 0x00, 0x01] ++ [0x14]) = some 5) ∧
    (byteAt [0x81, 0x92, 0x00, 0x01, 0x14] 0 = Cfg.device.header ∧
      expectedLen Cfg.device [0x81, 0x92, 0x00, 0x01, 0x14] = some [0x81, 0x92, 0x00, 0x01, 0x14].length) :=
  ⟨⟨fun _ h => by cases h; decide, by decide⟩, by decide⟩

theorem witness_ChecksumIsSumMod256 : [0x01, 0x02].Perm [(0x02 : Byte), 0x01] := by decide

theorem witness_ChecksumRoundTrip : 2 ≤ [(0x81 : Byte), 0x93].length := by decide

theorem witness_ChecksumDetectsOneChangedByte :
    (2 < [(0x81 : Byte), 0x93, 0x14].length ∧ (0x15 : Byte) ≠ byteAt [0x81, 0x93, 0x14] 2 ∧
      checksumOK [0x81, 0x93, 0x14] = true) ∧
    ([(0x81 : Byte), 0x93].map BitVec.toNat).sum % 256 = ([(0x93 : Byte), 0x81].map BitVec.toNat).sum % 256 := by decide

theorem witness_NoiseByteIsIgnored :
    Cfg.device.valid = true ∧ State.reset.asmState = .seekingHeader ∧
      { State.reset with rx := [.byte 0x90] }.rx = .byte 0x90 :: [] ∧ (0x90 : Byte) ≠ Cfg.device.header := by decide

theorem witness_HeaderByteStartsFrame :
    Cfg.device.valid = true ∧ State.reset.asmState = .seekingHeader ∧
      { State.reset with rx := [.byte 0x81] }.rx = .byte Cfg.device.header :: [] := by decide

theorem witness_ByteIsStoredWhileAccumulating :
    let s := partway [0x81] 0x81 State.reset
    Cfg.device.valid = true ∧ s.asmState = .accumulating ∧ s.frameLen < Cfg.device.maxFrame ∧ s.rx = [.byte 0x81] ∧
      expectedLen Cfg.device (partialFrame s ++ [0x81]) ≠ some (s.frameLen + 1) := by decide

/-- The three clauses: the 257th byte, the 256th byte of a FILE_DATA of 250 payload bytes, and a step that overflows. -/
theorem witness_FullScratchOverflows :
    (let s := { State.reset with asmState := .accumulating, frameLen := 256, rx := [.byte 0x81] }
     Cfg.device.valid = true ∧ s.asmState = .accumulating ∧ s.frameLen = Cfg.device.maxFrame ∧ s.rx = [.byte 0x81]) ∧
    (let s := partway ([0x81, 0x91, 0x00, 0x01, 0xFA] ++ List.replicate 250 0x11) 0x00 State.reset
     s.asmState = .accumulating ∧ s.frameLen + 1 = Cfg.device.maxFrame ∧ s.rx = [.byte 0x00] ∧
       expectedLen Cfg.device (partialFrame s ++ [0x00]) = some Cfg.device.maxFrame) ∧
    ∃ t, stepWith Cfg.device { State.reset with asmState := .accumulating, frameLen := 256, rx := [.byte 0x81] } =
        .next t ∧ .diag .frameOverflow [0x81] ∈ t.trace.drop State.reset.trace.length := by
  refine ⟨by decide, by decide +kernel, ?_⟩
  obtain ⟨t, ht, hs⟩ := next_with
    (o := stepWith Cfg.device { State.reset with asmState := .accumulating, frameLen := 256, rx := [.byte 0x81] })
    (P := fun t => decide (.diag .frameOverflow [0x81] ∈ t.trace.drop State.reset.trace.length)) (by decide +kernel)
  exact ⟨t, ht, of_decide_eq_true hs⟩

theorem witness_CompletedFrameIsDispatched :
    Cfg.device.valid = true ∧ (partway [0x81, 0x92, 0x00, 0x01] 0x14 open2).rx = [.byte 0x14] ∧
      Completes Cfg.device (partway [0x81, 0x92, 0x00, 0x01] 0x14 open2) 0x14 :=
  ⟨by decide, rfl, rfl, by decide, by decide⟩

theorem witness_StepRunsDecodedInstruction :
    let s := partway [0x81, 0x91, 0x00, 0x01, 0x01, 0x5A] 0x6E open2
    s.asmState = .accumulating ∧ s.frameLen < 256 ∧ s.rx = [.byte 0x6E] ∧
      decode (partialFrame s ++ [0x6E]) = .ok (.fileData 1 [0x5A] 0x6E, []) ∧
      (Instr.fileData 1 [0x5A] 0x6E).isCommand = true := by decide

theorem witness_ArrivingFrameRuns :
    let i := Instr.fileData 1 (List.replicate 250 0x11) 0
    i.isCommand = true ∧ i.wellFormed Cfg.device = true ∧ layoutLength i ≤ 256 ∧
      State.reset.asmState = .seekingHeader := by decide +kernel

theorem witness_HeaderFreeStreamIsSilent :
    State.reset.asmState = .seekingHeader ∧ ∀ b ∈ [(0x00 : Byte), 0x90, 0xFF], b ≠ 0x81 := by decide

/-- A frame of full length that began as an ACK and has not completed. -/
def ackFlood : List Byte := [0x81, 0x93] ++ List.replicate 254 0x81

theorem ackFlood_unfinished : expectedLen Cfg.device ackFlood = none := by decide +kernel

theorem witness_UnfinishedFrameSwallows257Bytes :
    ackFlood.length = 256 ∧ byteAt ackFlood 0 = 0x81 ∧
      (∀ E, expectedLen Cfg.device ackFlood = some E → 256 < E) ∧ State.reset.asmState = .seekingHeader := by
  refine ⟨by decide +kernel, by decide +kernel, fun E h => ?_, rfl⟩
  rw [ackFlood_unfinished] at h
  cases h

/-- The block in the middle of a session and of a frame, one response sent: it meets the invariant. -/
def midway : State :=
  { open2 with
    asmState := .accumulating
    frameLen := 2
    scratch := [(0, 0x81), (1, 0x92)]
    rx := [.byte 0x00]
    trace := [txReady] }

theorem midway_assembler : AssemblerInv Cfg.device midway :=
  ⟨by decide, by decide, fun _ => by decide, fun _ E h => by
    have : some 5 = some E := h
    cases this; decide⟩

theorem midway_session : SessionInv Cfg.device midway := by
  refine ⟨(nomatch ·), by decide, by decide, fun a ha => ?_, fun _ => by decide, by decide⟩
  have h5 : 5 ≤ a := ha
  have hn : midway.name = [(0, 0x61), (1, 0x2E), (2, 0x74), (3, 0x78), (4, 0x74)] := by decide
  simp only [hn, Memory.read]
  repeat rw [if_neg (by omega)]
  rfl

theorem midway_memory : MemoryInv Cfg.device midway :=
  ⟨fun sp => by cases sp <;> decide, fun sp => by cases sp <;> decide⟩

theorem midway_responses : OnlyResponses Cfg.device midway := fun bytes h => by
  have h' : Event.tx bytes ∈ [txReady] := h
  rw [List.mem_singleton] at h'
  cases h'
  exact ⟨.ready, by decide⟩

theorem witness_StepKeepsInvariant :
    Cfg.device.valid = true ∧ Inv Cfg.device midway ∧ (∃ t, step midway = .next t) ∧
      ∃ t, stepWith Cfg.device midway = .next t :=
  ⟨by decide, ⟨midway_assembler, midway_session, midway_memory, midway_responses⟩,
    next_of_after (by decide +kernel), next_of_after (by decide +kernel)⟩

theorem witness_FlushResynchronises :
    Inv Cfg.device midway ∧ (List.replicate 256 (0x00 : Byte)).length = 256 ∧
      ∀ b ∈ List.replicate 256 (0x00 : Byte), b ≠ 0x81 :=
  ⟨⟨midway_assembler, midway_session, midway_memory, midway_responses⟩, by decide +kernel,
    fun _ h => by rw [List.eq_of_mem_replicate h]; decide⟩

theorem witness_NoInputNoChange : { midway with rx := [] }.rx = [] := rfl

/-- A step that completes a frame and one that overflows, for both clauses of the statement. -/
theorem witness_EventsOfOneStep :
    (∃ t, step (partway [0x81, 0x92, 0x00, 0x01] 0x14 open2) = .next t) ∧
      let s := { State.reset with asmState := .accumulating, frameLen := 256, rx := [.byte 0x81] }
      Overflows Cfg.device s ∧ s.rx = [.byte 0x81] ∧ ∃ t, step s = .next t :=
  ⟨next_of_after (by decide +kernel), ⟨rfl, rfl⟩, rfl, next_of_after (by decide +kernel)⟩

theorem witness_StepKeepsSlotHolesEmpty :
    HolesEmpty midway ∧ ∃ t, step midway = .next t := by
  refine ⟨fun a ha => ?_, next_of_after (by decide +kernel)⟩
  have hb : midway.buffer = [(0, 0x41)] := rfl
  simp only [hb, Memory.read]
  rw [if_neg (by omega)]
  rfl

theorem witness_StoreOnlyAtFileEnd :
    let s := partway [0x81, 0x92, 0x00, 0x01] 0x14 open2
    ∃ t, step s = .next t ∧ .store aTxt [0x41, 0x00] 2 ∈ t.trace.drop s.trace.length := by
  obtain ⟨t, ht, hs⟩ := next_with (o := step (partway [0x81, 0x92, 0x00, 0x01] 0x14 open2))
    (P := fun t => decide (.store aTxt [0x41, 0x00] 2 ∈ t.trace)) (by decide +kernel)
  exact ⟨t, ht, of_decide_eq_true hs⟩

/-- Another stale byte, another expected count, and another buffer while no session is active. -/
theorem witness_HiddenStateIsUnobservable :
    SameObservable { State.reset with scratch := [(7, 0x55)], expectedPacketCount := 9, buffer := [(0, 0x01)] }
        State.reset ∧
      ∃ t, step { State.reset with scratch := [(7, 0x55)], expectedPacketCount := 9, buffer := [(0, 0x01)] } =
        .next t :=
  ⟨⟨rfl, rfl, rfl, rfl, (nomatch ·), rfl, rfl⟩, next_of_after (by decide +kernel)⟩

theorem witness_PastEventsInfluenceNothing : ∃ t, step midway = .next t := next_of_after (by decide +kernel)

theorem witness_FileStartOpensSession :
    aTxt.length ≤ 63 ∧ (10240 : Quad).toNat ≤ 10240 ∧
      (0x2D : Byte) = checksum ([0x81, 0x90, BitVec.ofNat 8 aTxt.length] ++ aTxt ++ be32Bytes 10240) := by decide

theorem witness_FileStartStoresName :
    aTxt.length ≤ 63 ∧ (10 : Quad).toNat ≤ 10240 ∧
      (0x0F : Byte) = checksum ([0x81, 0x90, BitVec.ofNat 8 aTxt.length] ++ aTxt ++ be32Bytes 10) ∧
      ∃ t, exec (.fileStart aTxt 10 0x0F) State.reset = .next t :=
  ⟨by decide, by decide, by decide, next_of_after (by decide +kernel)⟩

theorem witness_FileStartRefusesLongName :
    64 ≤ (List.replicate 64 (0x61 : Byte)).length ∧ (List.replicate 64 (0x61 : Byte)).length ≤ 255 := by decide

theorem witness_FileStartRefusesLargeSize : aTxt.length ≤ 63 ∧ 10240 < (10241 : Quad).toNat := by decide

theorem witness_FileStartChecksumFailureClears :
    aTxt.length ≤ 63 ∧ (10 : Quad).toNat ≤ 10240 ∧
      (0x0F : Byte) = checksum ([0x81, 0x90, BitVec.ofNat 8 aTxt.length] ++ aTxt ++ be32Bytes 10) ∧
      (0x10 : Byte) ≠ 0x0F := by decide

theorem witness_FileDataStoresPacket :
    open2.active = true ∧ [(0x5A : Byte)].length ≤ 255 ∧ 1 ≤ (40 : Half).toNat ∧
      ((40 : Half).toNat - 1) * 256 + [(0x5A : Byte)].length ≤ 10240 ∧
      (0x95 : Byte) = checksum ([0x81, 0x91] ++ be16Bytes 40 ++ [BitVec.ofNat 8 [(0x5A : Byte)].length] ++ [0x5A]) := by
  decide

theorem witness_FileDataChecksumFailureKeepsWrite :
    open2.active = true ∧ [(0x5A : Byte)].length ≤ 255 ∧ 1 ≤ (40 : Half).toNat ∧
      ((40 : Half).toNat - 1) * 256 + [(0x5A : Byte)].length ≤ 10240 ∧
      (0x95 : Byte) = checksum ([0x81, 0x91] ++ be16Bytes 40 ++ [BitVec.ofNat 8 [(0x5A : Byte)].length] ++ [0x5A]) ∧
      (0x96 : Byte) ≠ 0x95 := by decide

/-- The three clauses, the last at the first payload byte that is out of bounds. -/
theorem witness_FileDataRefusals :
    [(0x01 : Byte)].length ≤ 255 ∧ State.reset.active = false ∧ (open2.active = true ∧ (0 : Half).toNat = 0) ∧
      (open2.active = true ∧ 1 ≤ (41 : Half).toNat ∧ 10240 < ((41 : Half).toNat - 1) * 256 + [(0x01 : Byte)].length) := by
  decide

theorem witness_FileDataFrame :
    [(0x5A : Byte)].length ≤ 255 ∧ ∃ t, exec (.fileData 1 [0x5A] 0x6E) open2 = .next t :=
  ⟨by decide, next_of_after (by decide +kernel)⟩

theorem witness_PayloadByteLandsAtItsAddress :
    open2.active = true ∧ [(0x5A : Byte)].length ≤ 255 ∧ 1 ≤ (2 : Half).toNat ∧
      ((2 : Half).toNat - 1) * 256 + [(0x5A : Byte)].length ≤ 10240 ∧ 0 < [(0x5A : Byte)].length ∧
      ∃ t, exec (.fileData 2 [0x5A] 0x00) open2 = .next t :=
  ⟨by decide, by decide, by decide, by decide, by decide, next_of_after (by decide +kernel)⟩

theorem witness_RetransmissionRepairsSlot :
    open2.active = true ∧ [(0x5B : Byte)].length = [(0x5A : Byte)].length ∧ [(0x5A : Byte)].length ≤ 255 ∧
      1 ≤ (1 : Half).toNat ∧ ((1 : Half).toNat - 1) * 256 + [(0x5A : Byte)].length ≤ 10240 ∧
      ∃ s₁ s₂ t, exec (.fileData 1 [0x5B] 0x6E) open2 = .next s₁ ∧ exec (.fileData 1 [0x5A] 0x6E) s₁ = .next s₂ ∧
        exec (.fileData 1 [0x5A] 0x6E) open2 = .next t := by
  obtain ⟨s₁, h₁, hs⟩ := next_with (o := exec (.fileData 1 [0x5B] 0x6E) open2)
    (P := fun t => (after (exec (.fileData 1 [0x5A] 0x6E) t)).isSome) (by decide +kernel)
  obtain ⟨s₂, h₂⟩ := next_of_after hs
  obtain ⟨t, h⟩ := next_of_after (o := exec (.fileData 1 [0x5A] 0x6E) open2) (by decide +kernel)
  exact ⟨by decide, by decide, by decide, by decide, by decide, s₁, s₂, t, h₁, h₂, h⟩

theorem witness_FileEndStoresFile :
    open2.active = true ∧ open2.nameLen ≤ 64 ∧ open2.declaredSize.toNat ≤ 10240 ∧
      (0x14 : Byte) = checksum ([0x81, 0x92] ++ be16Bytes 1) := by decide

theorem witness_FileEndChecksumFailureClears :
    open2.active = true ∧ (0x14 : Byte) = checksum ([0x81, 0x92] ++ be16Bytes 1) ∧ (0x99 : Byte) ≠ 0x14 := by decide

theorem witness_FileEndRefusedWithoutSession : State.reset.active = false := rfl

/-- Two packets, one of them refused (sequence number 0), and an address in the place of neither. -/
theorem witness_UnwrittenBytesAreStoredAsZero :
    let packets : List Packet := [⟨1, [0x5A], 0x6E⟩, ⟨0, [0x5A, 0x5A], 0x00⟩]
    aTxt.length ≤ 63 ∧ (10 : Quad).toNat ≤ 10240 ∧ (∀ p ∈ packets, p.data.length ≤ 255) ∧
      ∀ p ∈ packets, ¬ p.Covers 1 := by decide

/-- A command, and a response frame for the last clause. -/
theorem witness_ExecLeavesAssemblerAlone :
    (∃ t, exec (.fileEnd 1 0x14) midway = .next t) ∧
      (Instr.ack 0x14).isCommand = false ∧ ∃ t, exec (.ack 0x14) midway = .next t :=
  ⟨next_of_after (by decide +kernel), rfl, next_of_after (by decide +kernel)⟩

theorem witness_OneResponsePerDispatchedFrame :
    (∃ t, exec (.fileStart aTxt 10 0x0F) midway = .next t) ∧ (∃ t, exec (.fileData 1 [0x5A] 0x6E) midway = .next t) ∧
      (∃ t, exec (.fileEnd 1 0x14) midway = .next t) ∧
      (∃ t, step midway = .next t) ∧
      (∀ b rest, midway.rx = .byte b :: rest → ¬ Completes Cfg.device midway b) := by
  refine ⟨next_of_after (by decide +kernel), next_of_after (by decide +kernel), next_of_after (by decide +kernel),
    next_of_after (by decide +kernel), fun b rest h hc => ?_⟩
  have hb : b = 0x00 := by
    have h' : [Input.byte 0x00] = .byte b :: rest := h
    cases h'; rfl
  subst hb
  exact absurd hc.2.2 (by decide)

/-- Each clause at the longest frame it refuses. -/
theorem witness_ShortFramesAreRefused :
    [(0x81 : Byte), 0x90, 0x00, 0x00, 0x00, 0x00, 0x00].length < Cfg.device.minStart ∧
      (let F : List Byte := [0x81, 0x90, 0x01, 0x61, 0x00, 0x00, 0x00, 0x01]
       Cfg.device.minStart ≤ F.length ∧ filenameLenOf F ≤ Cfg.device.maxName - 1 ∧ F.length < filenameLenOf F + 8) ∧
      (open2.active = true ∧ [(0x81 : Byte), 0x91, 0x00, 0x01, 0x00].length < Cfg.device.minData) ∧
      (let c := { Cfg.device with maxPayload := 255 - 1 }
       let F : List Byte := [0x81, 0x91, 0x00, 0x01, 0xFF, 0x00]
       open2.active = true ∧ c.minData ≤ F.length ∧ c.maxPayload < dataLenOf F) ∧
      (let F : List Byte := [0x81, 0x91, 0x00, 0x01, 0x01, 0x5A]
       open2.active = true ∧ Cfg.device.minData ≤ F.length ∧ dataLenOf F ≤ Cfg.device.maxPayload ∧
         F.length < dataLenOf F + 6) ∧
      (open2.active = true ∧ [(0x81 : Byte), 0x92, 0x00, 0x01].length < Cfg.device.minEnd) := by decide

theorem witness_UnknownCommandIsDropped :
    let F : List Byte := [0x81, 0xA0, 0x00]
    commandOf F ≠ Cfg.device.cmdFileStart ∧ commandOf F ≠ Cfg.device.cmdFileData ∧
      commandOf F ≠ Cfg.device.cmdFileEnd := by decide

theorem witness_OnePacketTransferDeliversFile :
    (List.replicate 63 (0x61 : Byte)).length ≤ 63 ∧ (List.replicate 250 (0x11 : Byte)).length ≤ 250 ∧
      State.reset.asmState = .seekingHeader := by decide +kernel

/-- Both clauses, at the last byte of the buffer and one past it. -/
theorem witness_BufferAccessesAreChecked :
    10239 + [(0x01 : Byte)].length ≤ Cfg.device.maxFile ∧ Cfg.device.maxFile < 10240 + [(0x01 : Byte)].length := by decide

theorem witness_ResetReplacesState : { midway with rx := [.reset, .byte 0x81] }.rx = .reset :: [.byte 0x81] := rfl

/-- A record that breaks R10, and two that meet it, `HEADER` being a command byte in the second (log 9). -/
theorem witness_InvalidCfgIsRefused :
    { Cfg.device with cmdAck := 0x94 }.valid = false ∧ Cfg.device.valid = true ∧
      { Cfg.device with header := 0x93 }.valid = true := by decide

/-- The block behind its ports with one event to hand over, and the input side open. -/
theorem witness_PortTransfersFollowTrace :
    let p : PortState := { block := midway, pending := [], sent := [.txByte 0x81, .txByte 0x95, .txByte 0x16] }
    p.sent ++ p.pending = transfersOf p.block.trace ∧ (∃ q, portTake p = .next q) ∧ ∃ q, portReset p = .next q :=
  ⟨by decide, next_of_after (by decide +kernel), next_of_after (by decide +kernel)⟩

end Sys2Proof.Tests
end

/-! Family 00_scope.md: the block goes on from every state with the invariant (R15), the trace is written and never read (R14),
and the records R10 excludes are the ones refused (I14). -/

namespace Sys2Proof.Machine

section Routing
/-! A completed frame is run by the dispatcher (R160): `exec` of a command is the dispatcher on its encoding. -/

theorem exec_eq_dispatch_encode {i : Instr} (h : i.isCommand = true) (s : State) :
    exec i s = dispatch Cfg.device (encode i) s := by
  cases i with
  | fileStart filename fileSize cs =>
    have hcmd : commandOf (encode (.fileStart filename fileSize cs)) = Cfg.device.cmdFileStart := rfl
    rw [dispatch, if_pos hcmd]
    rfl
  | fileData seqNum data cs =>
    have hcmd : commandOf (encode (.fileData seqNum data cs)) = Cfg.device.cmdFileData := rfl
    rw [dispatch, hcmd, if_neg (by decide), if_pos rfl]
    rfl
  | fileEnd totalPackets cs =>
    have hcmd : commandOf (encode (.fileEnd totalPackets cs)) = Cfg.device.cmdFileEnd := rfl
    rw [dispatch, hcmd, if_neg (by decide), if_neg (by decide), if_pos rfl]
    rfl
  | ack cs => cases h
  | nack cs => cases h
  | ready cs => cases h

/-- Whatever the decoder makes of the bytes, they run as the dispatcher runs some frame, the same one in every state. -/
theorem runFrame_eq_dispatch (F : List Byte) : ∃ G, ∀ s, runFrame F s = dispatch Cfg.device G s := by
  match hd : decode F with
  | .ok (i, []) =>
    by_cases hi : i.isCommand = true
    · exact ⟨encode i, fun s => by simp only [runFrame, hd, hi, if_true, exec_eq_dispatch_encode hi]⟩
    · exact ⟨F, fun s => by simp only [runFrame, hd, hi, if_false, Bool.false_eq_true]⟩
  | .ok (i, b :: rest) => exact ⟨F, fun s => by simp only [runFrame, hd]⟩
  | .error e => exact ⟨F, fun s => by simp only [runFrame, hd]⟩

end Routing

section Progress
/-! Where each operation answers a next state (R15, R63, R64): the checks a handler makes first keep its accesses inside their
spaces; FILE_END alone relies on the session invariants (R46). -/

/-- FILE_START makes no checked access. -/
theorem startHandler_next (c : Cfg) (F : List Byte) (s : State) : ∃ t, startHandler c F s = .next t := by
  simp only [startHandler, ← apply_ite]
  exact ⟨_, rfl⟩

theorem dataOf_length_le (F : List Byte) : (dataOf F).length ≤ dataLenOf F := List.length_take_le _ _

theorem copyPayload_ok {c : Cfg} {F : List Byte} (h : packetOffset c (seqNumOf F) + dataLenOf F ≤ c.maxFile)
    (now : Bool) (s : State) : ∃ t, copyPayload c now F s = .ok t := by
  have hlen := dataOf_length_le F
  cases now with
  | false => exact ⟨s, rfl⟩
  | true => exact ⟨_, memWrite_ok s (by omega)⟩

theorem storePacket_next {c : Cfg} {F : List Byte} (h : packetOffset c (seqNumOf F) + dataLenOf F ≤ c.maxFile)
    (s : State) : ∃ t, storePacket c F s = .next t := by
  obtain ⟨s₁, h₁⟩ := copyPayload_ok h c.writeBeforeVerify s
  obtain ⟨s₂, h₂⟩ := copyPayload_ok h (!c.writeBeforeVerify) s₁
  simp only [storePacket, h₁, h₂, orFault_ok, ← apply_ite]
  exact ⟨_, rfl⟩

/-- FILE_DATA writes only behind its bounds check. -/
theorem dataHandler_next (c : Cfg) (F : List Byte) (s : State) : ∃ t, dataHandler c F s = .next t := by
  by_cases hb : packetOffset c (seqNumOf F) + dataLenOf F > c.maxFile
  · simp only [dataHandler, hb, if_true, ← apply_ite]
    exact ⟨_, rfl⟩
  · obtain ⟨t, ht⟩ := storePacket_next (Nat.le_of_not_lt hb) s
    simp only [dataHandler, hb, if_false, ht, ← apply_ite]
    exact ⟨_, rfl⟩

theorem storeFile_next {c : Cfg} {s : State} (hn : s.nameLen ≤ c.maxName) (hd : s.declaredSize.toNat ≤ c.maxFile) :
    ∃ t, storeFile c s = .next t := by
  have hname : 0 + s.nameLen ≤ capacity c .name := by simpa [capacity] using hn
  have hdata : 0 + s.declaredSize.toNat ≤ capacity c .buffer := by simpa [capacity] using hd
  simp only [storeFile, readSpace_ok s hname, readSpace_ok s hdata, orFault_ok]
  exact ⟨_, rfl⟩

theorem endHandler_next {c : Cfg} {s : State} (hn : s.nameLen ≤ c.maxName) (hd : s.declaredSize.toNat ≤ c.maxFile)
    (F : List Byte) : ∃ t, endHandler c F s = .next t := by
  obtain ⟨t, ht⟩ := storeFile_next (s := warnCount (totalPacketsOf F) s) (by simpa using hn) (by simpa using hd)
  simp only [endHandler, ht, ← apply_ite]
  exact ⟨_, rfl⟩

theorem dispatch_next {c : Cfg} {s : State} (hn : s.nameLen ≤ c.maxName) (hd : s.declaredSize.toNat ≤ c.maxFile)
    (F : List Byte) : ∃ t, dispatch c F s = .next t := by
  rcases dispatch_cases c F s with ⟨-, h⟩ | ⟨-, h⟩ | ⟨-, h⟩ | h
  · rw [h]; exact startHandler_next c F s
  · rw [h]; exact dataHandler_next c F s
  · rw [h]; exact endHandler_next hn hd F
  · exact ⟨_, h⟩

/-- A byte is taken where the partial frame fits `Scratch` and the frame it may complete runs. -/
theorem ingest_next {c : Cfg} {run : Runner} {b : Byte} {s : State} (hfit : s.frameLen ≤ c.maxFrame)
    (hrun : ∀ F, ∃ t, run F (releaseFrame (stored b s)) = .next t) : ∃ t, ingest c run b s = .next t := by
  match ha : s.asmState with
  | .seekingHeader => exact ⟨seek c b s, by simp only [ingest, ha]⟩
  | .accumulating =>
    rcases Nat.eq_or_lt_of_le hfit with hfull | hroom
    · exact ⟨overflow c b s, by simp only [ingest, ha, hfull, if_true]⟩
    · rw [ingest_store ha hroom]
      split
      · exact hrun _
      · exact ⟨_, rfl⟩

/-- Only a byte can keep an input from being taken. -/
theorem takeInput_next {c : Cfg} {run : Runner} {s : State}
    (hbyte : ∀ b rest, ∃ t, ingest c run b { s with rx := rest } = .next t) : ∃ t, takeInput c run s = .next t := by
  match hrx : s.rx with
  | [] => exact ⟨s, by simp only [takeInput, hrx]⟩
  | .reset :: rest => exact ⟨applyReset { s with rx := rest }, by simp only [takeInput, hrx]⟩
  | .byte b :: rest =>
    rw [takeInput_byte hrx]
    exact hbyte b rest

theorem runFrame_next {s : State} (hn : s.nameLen ≤ Cfg.device.maxName)
    (hd : s.declaredSize.toNat ≤ Cfg.device.maxFile) (F : List Byte) : ∃ t, runFrame F s = .next t := by
  obtain ⟨G, hG⟩ := runFrame_eq_dispatch F
  rw [hG]
  exact dispatch_next hn hd G

/-- Settles O30: the assembler invariant keeps `frame_len` inside `Scratch`, and the session invariant keeps the two reads of
FILE_END inside their spaces. -/
theorem blockNeverStops : Obligations.BlockNeverStops := by
  intro s hinv
  have hname : s.nameLen ≤ Cfg.device.maxName := Nat.le_trans hinv.session.name_fits (Nat.sub_le _ _)
  exact takeInput_next fun b rest => ingest_next hinv.assembler.fits (runFrame_next hname hinv.session.size_fits)

end Progress

section Past
/-! The trace is written and never read (R14, R15, log 2): every operation commutes with putting events before the trace. -/

/-- The state in which the events `past` were emitted before those of `s`. -/
def State.precededBy (past : List Event) (s : State) : State := { s with trace := past ++ s.trace }

/-- The outcome with the events `past` put before those of its next state. -/
def precedeNext (past : List Event) : Host.Outcome State Fault Refusal → Host.Outcome State Fault Refusal
  | .next s => .next (s.precededBy past)
  | .fault f => .fault f
  | .refused r => .refused r

variable (past : List Event)

@[simp] theorem precedeNext_next (s : State) : precedeNext past (.next s) = .next (s.precededBy past) := rfl

@[simp] theorem precededBy_asmState (s : State) : (s.precededBy past).asmState = s.asmState := rfl
@[simp] theorem precededBy_frameLen (s : State) : (s.precededBy past).frameLen = s.frameLen := rfl
@[simp] theorem precededBy_active (s : State) : (s.precededBy past).active = s.active := rfl
@[simp] theorem precededBy_nameLen (s : State) : (s.precededBy past).nameLen = s.nameLen := rfl
@[simp] theorem precededBy_declaredSize (s : State) : (s.precededBy past).declaredSize = s.declaredSize := rfl
@[simp] theorem precededBy_receivedPacketCount (s : State) :
    (s.precededBy past).receivedPacketCount = s.receivedPacketCount := rfl

/-- Any trace is the past of the state with none. -/
theorem precededBy_untraced (s : State) :
    ({ s with trace := [] } : State).precededBy past = { s with trace := past } := by
  simp only [State.precededBy, List.append_nil]

theorem emit_precededBy (s : State) (e : Event) : (s.precededBy past).emit e = (s.emit e).precededBy past := by
  simp only [State.emit, State.precededBy, List.append_assoc]

theorem respond_precededBy (c : Cfg) (k : ResponseKind) (s : State) :
    respond c k (s.precededBy past) = (respond c k s).precededBy past := emit_precededBy past s _

theorem raise_precededBy (c : Cfg) (e : ErrorCode) (info : List Nat) (s : State) :
    raise c e info (s.precededBy past) = (raise c e info s).precededBy past := by
  unfold raise
  rw [emit_precededBy]
  cases e.response with
  | none => rfl
  | some k => exact respond_precededBy past c k _

theorem sessionClear_precededBy (s : State) :
    sessionClear (s.precededBy past) = (sessionClear s).precededBy past := rfl

theorem openSession_precededBy (c : Cfg) (filename : List Byte) (size : Nat) (s : State) :
    openSession c filename size (s.precededBy past) = (openSession c filename size s).precededBy past := rfl

theorem verifyStart_precededBy (c : Cfg) (F : List Byte) (s : State) :
    verifyStart c F (s.precededBy past) = (verifyStart c F s).precededBy past := by
  unfold verifyStart
  split
  · exact respond_precededBy past c .ready s
  · rw [sessionClear_precededBy, raise_precededBy]

theorem startHandler_precededBy (c : Cfg) (F : List Byte) (s : State) :
    startHandler c F (s.precededBy past) = precedeNext past (startHandler c F s) := by
  simp only [startHandler, raise_precededBy, openSession_precededBy, verifyStart_precededBy,
    apply_ite (precedeNext past), precedeNext_next]

theorem precedeNext_orFault {α : Type} (r : Except Fault α) (k : α → Host.Outcome State Fault Refusal) :
    precedeNext past (orFault r k) = orFault r fun a => precedeNext past (k a) := by
  cases r with
  | ok a => rfl
  | error f => rfl

theorem orFault_map {α β : Type} (f : α → β) (r : Except Fault α) (k : β → Host.Outcome State Fault Refusal) :
    orFault (r.map f) k = orFault r fun a => k (f a) := by
  cases r with
  | ok a => rfl
  | error e => rfl

theorem countPacket_precededBy (c : Cfg) (s : State) :
    countPacket c (s.precededBy past) = (countPacket c s).precededBy past := rfl

theorem copyPayload_precededBy (c : Cfg) (now : Bool) (F : List Byte) (s : State) :
    copyPayload c now F (s.precededBy past) = (copyPayload c now F s).map (State.precededBy past) := by
  unfold copyPayload memWrite
  split
  · split <;> rfl
  · rfl

theorem storePacket_precededBy (c : Cfg) (F : List Byte) (s : State) :
    storePacket c F (s.precededBy past) = precedeNext past (storePacket c F s) := by
  simp only [storePacket, copyPayload_precededBy, orFault_map, precedeNext_orFault, countPacket_precededBy,
    respond_precededBy, raise_precededBy, apply_ite (precedeNext past), precedeNext_next]

theorem dataHandler_precededBy (c : Cfg) (F : List Byte) (s : State) :
    dataHandler c F (s.precededBy past) = precedeNext past (dataHandler c F s) := by
  simp only [dataHandler, precededBy_active, raise_precededBy, storePacket_precededBy,
    apply_ite (precedeNext past), precedeNext_next]

theorem warnCount_precededBy (n : Nat) (s : State) :
    warnCount n (s.precededBy past) = (warnCount n s).precededBy past := by
  simp only [warnCount, precededBy_receivedPacketCount, emit_precededBy, apply_ite (State.precededBy past)]

/-- An access reads no event. -/
theorem readSpace_precededBy (c : Cfg) (sp : Space) (addr n : Nat) (s : State) :
    readSpace c sp addr n (s.precededBy past) = readSpace c sp addr n s := by
  cases sp <;> rfl

theorem storeFile_precededBy (c : Cfg) (s : State) :
    storeFile c (s.precededBy past) = precedeNext past (storeFile c s) := by
  simp only [storeFile, precededBy_nameLen, precededBy_declaredSize, readSpace_precededBy, precedeNext_orFault,
    emit_precededBy, respond_precededBy, sessionClear_precededBy, precedeNext_next]

theorem endHandler_precededBy (c : Cfg) (F : List Byte) (s : State) :
    endHandler c F (s.precededBy past) = precedeNext past (endHandler c F s) := by
  simp only [endHandler, precededBy_active, raise_precededBy, sessionClear_precededBy, warnCount_precededBy,
    storeFile_precededBy, apply_ite (precedeNext past), precedeNext_next]

theorem dispatch_precededBy (c : Cfg) (F : List Byte) (s : State) :
    dispatch c F (s.precededBy past) = precedeNext past (dispatch c F s) := by
  simp only [dispatch, unknownCommand, startHandler_precededBy, dataHandler_precededBy, endHandler_precededBy,
    raise_precededBy, apply_ite (precedeNext past), precedeNext_next]

theorem runFrame_precededBy (F : List Byte) (s : State) :
    runFrame F (s.precededBy past) = precedeNext past (runFrame F s) := by
  obtain ⟨G, hG⟩ := runFrame_eq_dispatch F
  rw [hG, hG, dispatch_precededBy]

theorem seek_precededBy (c : Cfg) (b : Byte) (s : State) :
    seek c b (s.precededBy past) = (seek c b s).precededBy past := by
  unfold seek
  split <;> rfl

theorem releaseFrame_precededBy (s : State) :
    releaseFrame (s.precededBy past) = (releaseFrame s).precededBy past := rfl

theorem overflow_precededBy (c : Cfg) (b : Byte) (s : State) :
    overflow c b (s.precededBy past) = (overflow c b s).precededBy past := by
  unfold overflow
  rw [releaseFrame_precededBy, raise_precededBy]
  cases c.overflowPolicy with
  | drop => rfl
  | reexamine => exact seek_precededBy past c b _

theorem storeByte_precededBy (c : Cfg) (b : Byte) (s : State) :
    storeByte c b (s.precededBy past) = (storeByte c b s).map (State.precededBy past) := by
  unfold storeByte
  rw [precededBy_frameLen]
  split <;> rfl

theorem partialFrame_precededBy (s : State) : partialFrame (s.precededBy past) = partialFrame s := rfl

section Runner
variable {run : Runner} (hrun : ∀ F s, run F (s.precededBy past) = precedeNext past (run F s))
include hrun

theorem completeFrame_precededBy (c : Cfg) (s : State) :
    completeFrame c run (s.precededBy past) = precedeNext past (completeFrame c run s) := by
  simp only [completeFrame, partialFrame_precededBy, precededBy_frameLen, releaseFrame_precededBy, hrun,
    apply_ite (precedeNext past), precedeNext_next]

theorem ingest_precededBy (c : Cfg) (b : Byte) (s : State) :
    ingest c run b (s.precededBy past) = precedeNext past (ingest c run b s) := by
  unfold ingest
  rw [precededBy_asmState]
  cases s.asmState with
  | seekingHeader => exact congrArg _ (seek_precededBy past c b s)
  | accumulating =>
    simp only [precededBy_frameLen, overflow_precededBy, storeByte_precededBy,
      orFault_map, precedeNext_orFault, completeFrame_precededBy past hrun, apply_ite (precedeNext past),
      precedeNext_next]

theorem takeInput_precededBy (c : Cfg) (s : State) :
    takeInput c run (s.precededBy past) = precedeNext past (takeInput c run s) := by
  match hrx : s.rx with
  | [] => simp only [takeInput, State.precededBy, hrx, precedeNext]
  | .reset :: rest => simp only [takeInput, State.precededBy, hrx, precedeNext, applyReset]
  | .byte b :: rest =>
    rw [takeInput_byte hrx, takeInput_byte (s := s.precededBy past) hrx]
    exact ingest_precededBy past hrun c b { s with rx := rest }

end Runner

theorem step_precededBy (s : State) : step (s.precededBy past) = precedeNext past (step s) :=
  takeInput_precededBy past (runFrame_precededBy past) Cfg.device s

/-- What a next state with events put before it comes from. -/
theorem precedeNext_eq_next {o : Host.Outcome State Fault Refusal} {t : State} (h : precedeNext past o = .next t) :
    ∃ u, o = .next u ∧ t = u.precededBy past := by
  cases o with
  | next u => exact ⟨u, rfl, (Host.Outcome.next.inj h).symm⟩
  | fault f => cases h
  | refused r => cases h

end Past

/-- Settles O34: both steps are the step of the state with no past, which the past is put before. -/
theorem pastEventsInfluenceNothing : Obligations.PastEventsInfluenceNothing := by
  intro s t past hstep
  have hs : ({ s with trace := [] } : State).precededBy s.trace = s := precededBy_untraced s.trace s
  rw [← hs, step_precededBy] at hstep
  obtain ⟨u, hu, rfl⟩ := precedeNext_eq_next _ hstep
  rw [← precededBy_untraced past s, step_precededBy, hu]
  simp [State.precededBy]

section Refusal
/-! Nothing behind the check of the `cfg` refuses (log 15). -/

theorem orFault_ne_refused {α : Type} {r : Except Fault α} {k : α → Host.Outcome State Fault Refusal} {why : Refusal}
    (hk : ∀ a, k a ≠ .refused why) : orFault r k ≠ .refused why := by
  cases r with
  | ok a => exact hk a
  | error f => exact nofun

theorem storeFile_ne_refused (c : Cfg) (s : State) (why : Refusal) : storeFile c s ≠ .refused why :=
  orFault_ne_refused fun _ => orFault_ne_refused fun _ => nofun

theorem endHandler_ne_refused (c : Cfg) (F : List Byte) (s : State) (why : Refusal) :
    endHandler c F s ≠ .refused why := by
  unfold endHandler
  split
  · exact nofun
  split
  · exact nofun
  split
  · exact nofun
  · exact storeFile_ne_refused c _ why

theorem dispatch_ne_refused (c : Cfg) (F : List Byte) (s : State) (why : Refusal) :
    dispatch c F s ≠ .refused why := by
  rcases dispatch_cases c F s with ⟨-, h⟩ | ⟨-, h⟩ | ⟨-, h⟩ | h
  · obtain ⟨t, ht⟩ := startHandler_next c F s
    rw [h, ht]; exact nofun
  · obtain ⟨t, ht⟩ := dataHandler_next c F s
    rw [h, ht]; exact nofun
  · rw [h]; exact endHandler_ne_refused c F s why
  · rw [h]; exact nofun

theorem ingest_ne_refused {run : Runner} {why : Refusal} (hrun : ∀ F s, run F s ≠ .refused why)
    (c : Cfg) (b : Byte) (s : State) : ingest c run b s ≠ .refused why := by
  unfold ingest
  split
  · exact nofun
  split
  · exact nofun
  refine orFault_ne_refused fun s₁ => ?_
  unfold completeFrame
  split
  · exact hrun _ _
  · exact nofun

theorem takeInput_ne_refused {run : Runner} {why : Refusal} (hrun : ∀ F s, run F s ≠ .refused why)
    (c : Cfg) (s : State) : takeInput c run s ≠ .refused why := by
  unfold takeInput
  split
  · exact nofun
  · exact nofun
  · exact ingest_ne_refused hrun c _ _

/-- The constraints of R10 one by one: that the six command bytes are distinct is that its fifteen pairs are. -/
theorem valid_iff (c : Cfg) : c.valid = true ↔
    c.cmdFileStart ≠ c.cmdFileData ∧ c.cmdFileStart ≠ c.cmdFileEnd ∧ c.cmdFileStart ≠ c.cmdAck ∧
    c.cmdFileStart ≠ c.cmdNack ∧ c.cmdFileStart ≠ c.cmdReady ∧
    c.cmdFileData ≠ c.cmdFileEnd ∧ c.cmdFileData ≠ c.cmdAck ∧ c.cmdFileData ≠ c.cmdNack ∧
    c.cmdFileData ≠ c.cmdReady ∧
    c.cmdFileEnd ≠ c.cmdAck ∧ c.cmdFileEnd ≠ c.cmdNack ∧ c.cmdFileEnd ≠ c.cmdReady ∧
    c.cmdAck ≠ c.cmdNack ∧ c.cmdAck ≠ c.cmdReady ∧ c.cmdNack ≠ c.cmdReady ∧
    1 ≤ c.maxName ∧ c.minStart ≤ c.maxFrame ∧ c.minData ≤ c.maxFrame ∧ c.minEnd ≤ c.maxFrame ∧
    1 ≤ c.maxPayload ∧ 8 ≤ c.minStart ∧ 6 ≤ c.minData ∧ 5 ≤ c.minEnd ∧ 16 ≤ c.countWidth := by
  simp only [Cfg.valid, decide_eq_true_eq, List.nodup_cons, List.mem_cons, List.not_mem_nil, not_or, or_false,
    not_false_eq_true, List.nodup_nil, and_true, and_assoc, ne_eq]

end Refusal

/-- Settles O59: the check of the `cfg` is the only one that refuses. -/
theorem invalidCfgIsRefused : Obligations.InvalidCfgIsRefused := by
  intro c s
  simp only [← valid_iff c]
  split
  · next hc =>
    intro why
    rw [stepWith_valid hc]
    exact takeInput_ne_refused (fun F u => dispatch_ne_refused c F u why) c s
  · next hc => exact if_neg hc

end Sys2Proof.Machine

/-! Family 10_state.md: the invariants R37 and R46 hold at reset and every step keeps them, the state that R35, R42 and R45 leave
open cannot be observed, `Name` is stored zero-padded (R40), and `SessionClear` (R45). -/

namespace Sys2Proof.Machine

open MemoryLaws

section Clearing
/-! `SessionClear()` (R45). -/

theorem sessionClear_empty (s : State) : SessionEmpty (sessionClear s) := ⟨rfl, rfl, rfl, rfl, rfl, rfl, rfl⟩

theorem reset_sessionEmpty : SessionEmpty State.reset := ⟨rfl, rfl, rfl, rfl, rfl, rfl, rfl⟩

/-- Settles O56: each field is set to its reset value by the definition. -/
theorem sessionClearEmptiesSession : Obligations.SessionClearEmptiesSession :=
  fun s => ⟨sessionClear_empty s, reset_sessionEmpty, rfl⟩

end Clearing

section Spaces
/-! The three memories, one condition each (R60). -/

/-- A canonical memory that lists no byte outside a space of `n` bytes. -/
def Memory.Within (m : Memory) (n : Nat) : Prop := m.wf ∧ ∀ p ∈ m, p.1 < n

theorem within_zeros (n : Nat) : Memory.zeros.Within n := ⟨zeros_wf, nofun⟩

theorem within_write {m : Memory} {n a : Nat} (h : m.Within n) (ha : a < n) (b : Byte) : (m.write a b).Within n :=
  ⟨write_wf h.1 a b, write_bounded h.2 ha b⟩

theorem within_writeBytes {m : Memory} {n a : Nat} {v : List Byte} (h : m.Within n) (ha : a + v.length ≤ n) :
    (m.writeBytes a v).Within n := ⟨writeBytes_wf h.1 a v, writeBytes_bounded h.2 ha⟩

/-- The memory invariant, space by space. -/
theorem memoryInv_iff {c : Cfg} {s : State} :
    MemoryInv c s ↔ s.scratch.Within c.maxFrame ∧ s.name.Within c.maxName ∧ s.buffer.Within c.maxFile where
  mp h := ⟨⟨h.canonical .scratch, h.bounded .scratch⟩, ⟨h.canonical .name, h.bounded .name⟩,
    ⟨h.canonical .buffer, h.bounded .buffer⟩⟩
  mpr := fun ⟨hscratch, hname, hbuffer⟩ =>
    ⟨fun | .scratch => hscratch.1 | .name => hname.1 | .buffer => hbuffer.1,
     fun | .scratch => hscratch.2 | .name => hname.2 | .buffer => hbuffer.2⟩

/-- A filename stored from address 0 on is zero-padded (R40). -/
theorem read_name_padding {filename : List Byte} {a : Nat} (h : filename.length ≤ a) :
    (Memory.zeros.writeBytes 0 filename).read a = 0 := by
  rw [read_writeBytes, if_neg (by omega), read_zeros]

end Spaces

section Keeping
/-! What each part of the invariant depends on: an update of one part of the state has to re-establish that part alone. -/

variable {c : Cfg} {s : State}

/-- The environment's fields matter to the response invariant alone. -/
theorem Inv.withEnvironment (h : Inv c s) {r : List Input} {l : List Event}
    (hl : OnlyResponses c { s with rx := r, trace := l }) : Inv c { s with rx := r, trace := l } where
  assembler := ⟨h.assembler.idle_iff, h.assembler.fits, h.assembler.header_first, h.assembler.unfinished⟩
  session := ⟨h.session.inactive_empty, h.session.size_fits, h.session.name_fits, h.session.name_padded,
    h.session.expected_eq, h.session.count_fits⟩
  memory := ⟨h.memory.canonical, h.memory.bounded⟩
  responses := hl

/-- The assembler's fields matter to the assembler invariant, and `Scratch` has to stay a memory of its size. -/
theorem Inv.withAssembler (h : Inv c s) {a : AsmState} {n : Nat} {m : Memory} (hm : m.Within c.maxFrame)
    (ha : AssemblerInv c { s with asmState := a, frameLen := n, scratch := m }) :
    Inv c { s with asmState := a, frameLen := n, scratch := m } where
  assembler := ha
  session := ⟨h.session.inactive_empty, h.session.size_fits, h.session.name_fits, h.session.name_padded,
    h.session.expected_eq, h.session.count_fits⟩
  memory :=
    have ⟨_, hname, hbuffer⟩ := memoryInv_iff.mp h.memory
    memoryInv_iff.mpr ⟨hm, hname, hbuffer⟩
  responses := h.responses

/-- The session's fields matter to the session invariant, and `Name` and `Buffer` have to stay memories of their sizes. -/
theorem Inv.withSession (h : Inv c s) {act : Bool} {name buf : Memory} {len expected received : Nat} {size : Quad}
    (hname : name.Within c.maxName) (hbuf : buf.Within c.maxFile)
    (hs : SessionInv c { s with
      active := act, name := name, nameLen := len, declaredSize := size, expectedPacketCount := expected,
      receivedPacketCount := received, buffer := buf }) :
    Inv c { s with
      active := act, name := name, nameLen := len, declaredSize := size, expectedPacketCount := expected,
      receivedPacketCount := received, buffer := buf } where
  assembler := ⟨h.assembler.idle_iff, h.assembler.fits, h.assembler.header_first, h.assembler.unfinished⟩
  session := hs
  memory :=
    have ⟨hscratch, _, _⟩ := memoryInv_iff.mp h.memory
    memoryInv_iff.mpr ⟨hscratch, hname, hbuf⟩
  responses := h.responses

/-- An input taken from the queue. -/
theorem Inv.setRx (h : Inv c s) (r : List Input) : Inv c { s with rx := r } :=
  h.withEnvironment (l := s.trace) h.responses

/-- An event emitted, which is a response if it is a `Tx` (R214). -/
theorem Inv.emit (h : Inv c s) {e : Event} (he : ∀ bytes, .tx bytes = e → ∃ k, bytes = responseFrame c k) :
    Inv c (s.emit e) := by
  refine h.withEnvironment (r := s.rx) fun bytes hmem => ?_
  rcases List.mem_append.mp hmem with hold | hnew
  · exact h.responses bytes hold
  · exact he bytes (List.mem_singleton.mp hnew)

theorem Inv.store (h : Inv c s) (name data : List Byte) (n : Nat) : Inv c (s.emit (.store name data n)) :=
  h.emit nofun

theorem Inv.respond (h : Inv c s) (k : ResponseKind) : Inv c (respond c k s) :=
  h.emit fun _ heq => ⟨k, Event.tx.inj heq⟩

theorem Inv.raise (h : Inv c s) (e : ErrorCode) (info : List Nat) : Inv c (raise c e info s) := by
  have hdiag : Inv c (s.emit (.diag e info)) := h.emit nofun
  unfold Machine.raise
  cases e.response with
  | none => exact hdiag
  | some k => exact hdiag.respond k

end Keeping

section Session
/-! The session invariant (R46): only FILE_START opens a session, and only with a name and a size that fit. -/

variable {c : Cfg} {s : State}

/-- An empty session has the session invariant, whatever the `cfg`. -/
theorem sessionInv_of_empty (h : SessionEmpty s) : SessionInv c s := by
  have ⟨hactive, hname, hlen, hsize, _, hreceived, _⟩ := h
  exact {
    inactive_empty := fun _ => h
    size_fits := by simp [hsize]
    name_fits := by simp [hlen]
    name_padded := by simp [hname]
    expected_eq := by simp [hactive]
    count_fits := by simp [hreceived] }

theorem Inv.sessionClear (h : Inv c s) : Inv c (sessionClear s) :=
  h.withSession (within_zeros _) (within_zeros _) (sessionInv_of_empty (sessionClear_empty s))

/-- A session opened with a name that leaves room for its terminator and a size that fits the buffer (R165). -/
theorem Inv.openSession (h : Inv c s) {filename : List Byte} {size : Nat} (hname : filename.length ≤ c.maxName - 1)
    (hsize : size ≤ c.maxFile) (hword : size < 2 ^ 32) : Inv c (openSession c filename size s) := by
  have hdeclared : (BitVec.ofNat 32 size).toNat = size := by
    rw [BitVec.toNat_ofNat, Nat.mod_eq_of_lt hword]
  refine h.withSession (within_writeBytes (within_zeros _) (by omega)) (within_zeros _) ?_
  exact {
    inactive_empty := nofun
    size_fits := by simpa only [hdeclared] using hsize
    name_fits := hname
    name_padded := fun _ => read_name_padding
    expected_eq := fun _ => by simp only [hdeclared]
    count_fits := Nat.two_pow_pos _ }

/-- A payload written inside the buffer of an active session (R64). -/
theorem Inv.writeBuffer (h : Inv c s) (ha : s.active = true) {addr : Nat} {v : List Byte}
    (hfit : addr + v.length ≤ c.maxFile) : Inv c { s with buffer := s.buffer.writeBytes addr v } := by
  have ⟨_, hname, hbuffer⟩ := memoryInv_iff.mp h.memory
  refine h.withSession hname (within_writeBytes hbuffer hfit) ?_
  exact { h.session with inactive_empty := fun hi => absurd (ha.symm.trans hi) nofun }

/-- A packet counted in an active session: the counter wraps inside its width (R43). -/
theorem Inv.countPacket (h : Inv c s) (ha : s.active = true) : Inv c (countPacket c s) := by
  have ⟨_, hname, hbuffer⟩ := memoryInv_iff.mp h.memory
  refine h.withSession hname hbuffer ?_
  exact { h.session with
    inactive_empty := fun hi => absurd (ha.symm.trans hi) nofun
    count_fits := Nat.mod_lt _ (Nat.two_pow_pos _) }

theorem Inv.warnCount (h : Inv c s) (total : Nat) : Inv c (warnCount total s) := by
  unfold Machine.warnCount
  split
  · exact h
  · exact h.emit nofun

/-- The size field has four bytes. -/
theorem fileSizeOf_lt (F : List Byte) : fileSizeOf F < 2 ^ 32 := by
  unfold fileSizeOf be32
  omega

theorem filenameOf_length_le (F : List Byte) : (filenameOf F).length ≤ filenameLenOf F := List.length_take_le _ _

theorem startHandler_keeps_inv {F : List Byte} {t : State} (h : Inv c s) (hrun : startHandler c F s = .next t) :
    Inv c t := by
  rcases startHandler_cases hrun with ⟨e, info, -, rfl⟩ | ⟨hname, -, hsize, hverify⟩
  · exact h.raise e info
  have hopen : Inv c (Machine.openSession c (filenameOf F) (fileSizeOf F) s) :=
    h.openSession (Nat.le_trans (filenameOf_length_le F) hname) hsize (fileSizeOf_lt F)
  rcases hverify with ⟨-, rfl⟩ | ⟨-, rfl⟩
  · exact hopen.respond .ready
  · exact hopen.sessionClear.raise _ _

theorem dataHandler_keeps_inv {F : List Byte} {t : State} (h : Inv c s) (hrun : dataHandler c F s = .next t) :
    Inv c t := by
  rcases dataHandler_cases hrun with ⟨e, info, -, rfl⟩ | ⟨ha, -, -, hfit, hverify⟩
  · exact h.raise e info
  have hlen := dataOf_length_le F
  have hstored := h.writeBuffer ha (addr := packetOffset c (seqNumOf F)) (v := dataOf F) (by omega)
  rcases hverify with ⟨-, rfl⟩ | ⟨-, rfl⟩
  · exact (hstored.countPacket ha).respond .ack
  · refine Inv.raise ?_ _ _
    split
    · exact hstored
    · exact h

theorem endHandler_keeps_inv {F : List Byte} {t : State} (h : Inv c s) (hrun : endHandler c F s = .next t) :
    Inv c t := by
  rcases endHandler_cases hrun with ⟨e, info, -, rfl⟩ | ⟨-, -, rfl⟩ | ⟨-, -, -, -, rfl⟩
  · exact h.raise e info
  · exact h.sessionClear.raise _ _
  · exact (((h.warnCount _).store _ _ _).respond .ack).sessionClear

theorem dispatch_keeps_inv {F : List Byte} {t : State} (h : Inv c s) (hrun : dispatch c F s = .next t) : Inv c t := by
  rcases dispatch_cases c F s with ⟨-, heq⟩ | ⟨-, heq⟩ | ⟨-, heq⟩ | heq <;> rw [heq] at hrun
  · exact startHandler_keeps_inv h hrun
  · exact dataHandler_keeps_inv h hrun
  · exact endHandler_keeps_inv h hrun
  · exact Host.Outcome.next.inj hrun ▸ h.raise _ _

end Session

section Length
/-! The length decoder on a growing frame (R97, R136): the frame never gets past a length the decoder knows. -/

variable {c : Cfg} {P : List Byte}

/-- The shortest frame of known length is FILE_END's. -/
theorem five_le_of_expectedLen {E : Nat} (h : expectedLen c P = some E) : 5 ≤ E := by
  unfold expectedLen at h
  repeat' split at h
  all_goals simp only [Option.some.injEq, reduceCtorEq] at h
  all_goals omega

/-- The first five bytes decide, so that a length once known from them stays. -/
theorem expectedLen_append (h : 5 ≤ P.length) (Q : List Byte) : expectedLen c (P ++ Q) = expectedLen c P := by
  have hbyte (i : Nat) (hi : i < 5) : byteAt (P ++ Q) i = byteAt P i := byteAt_append_left (by omega)
  have hlen : (P ++ Q).length = P.length + Q.length := List.length_append
  simp only [expectedLen, hbyte 1 (by omega), hbyte 2 (by omega), hbyte 4 (by omega), hlen,
    if_neg (show ¬ P.length + Q.length < 2 by omega), if_neg (show ¬ P.length < 2 by omega),
    if_pos (show 3 ≤ P.length + Q.length by omega), if_pos (show 3 ≤ P.length by omega),
    if_pos (show 5 ≤ P.length + Q.length by omega), if_pos h]

/-- One more byte does not take an unfinished frame past its length (R136). -/
theorem length_le_expectedLen_append {b : Byte} {E : Nat} (hP : ∀ E, expectedLen c P = some E → P.length < E)
    (h : expectedLen c (P ++ [b]) = some E) : P.length + 1 ≤ E := by
  by_cases hlong : 5 ≤ P.length
  · exact hP E (expectedLen_append hlong [b] ▸ h)
  · have := five_le_of_expectedLen h
    omega

end Length

section Assembler
/-! The assembler invariant (R37): a frame starts with its header, and is kept only while it is unfinished. -/

variable {c : Cfg} {s : State}

/-- Outside a frame the assembler invariant says that no byte is stored. -/
theorem assemblerInv_of_idle (ha : s.asmState = .seekingHeader) (hl : s.frameLen = 0) : AssemblerInv c s where
  idle_iff := by simp [ha, hl]
  fits := by omega
  header_first h := nomatch ha.symm.trans h
  unfinished h := nomatch ha.symm.trans h

theorem Inv.releaseFrame (h : Inv c s) : Inv c (releaseFrame s) :=
  have ⟨hscratch, _, _⟩ := memoryInv_iff.mp h.memory
  h.withAssembler hscratch (assemblerInv_of_idle rfl rfl)

/-- A frame of its header alone has no length yet. -/
theorem Inv.startFrame (h : Inv c s) (hroom : 1 ≤ c.maxFrame) : Inv c (startFrame c s) := by
  have ⟨hscratch, _, _⟩ := memoryInv_iff.mp h.memory
  refine h.withAssembler (within_write hscratch hroom c.header) ?_
  exact {
    idle_iff := by simp
    fits := hroom
    header_first := fun _ => by simp only [read_write, if_true]
    unfinished := fun _ E hE => by
      have := five_le_of_expectedLen hE
      show 1 < E
      omega }

theorem Inv.seek (h : Inv c s) (hroom : 1 ≤ c.maxFrame) (b : Byte) : Inv c (seek c b s) := by
  unfold Machine.seek
  split
  · exact h.startFrame hroom
  · exact h

theorem Inv.overflow (h : Inv c s) (hroom : 1 ≤ c.maxFrame) (b : Byte) : Inv c (overflow c b s) := by
  have hraised := h.releaseFrame.raise .frameOverflow [b.toNat]
  unfold Machine.overflow
  cases c.overflowPolicy with
  | drop => exact hraised
  | reexamine => exact hraised.seek hroom b

theorem stored_scratch_within (h : Inv c s) (hl : s.frameLen < c.maxFrame) (b : Byte) :
    (stored b s).scratch.Within c.maxFrame :=
  have ⟨hscratch, _, _⟩ := memoryInv_iff.mp h.memory
  within_write hscratch hl b

theorem partialFrame_stored (s : State) (b : Byte) : partialFrame (stored b s) = partialFrame s ++ [b] :=
  partialFrame_store s b

/-- A byte stored that does not complete its frame (R133). -/
theorem Inv.stored (h : Inv c s) (ha : s.asmState = .accumulating) (hl : s.frameLen < c.maxFrame) {b : Byte}
    (hne : expectedLen c (partialFrame s ++ [b]) ≠ some (s.frameLen + 1)) : Inv c (stored b s) := by
  have hstarted : 0 ≠ s.frameLen := fun h0 => nomatch ha.symm.trans (h.assembler.idle_iff.mpr h0.symm)
  refine h.withAssembler (a := s.asmState) (stored_scratch_within h hl b) ?_
  exact {
    idle_iff := by simp [ha]
    fits := hl
    header_first := fun _ => by
      simp only [read_write, if_neg hstarted]
      exact h.assembler.header_first ha
    unfinished := fun _ E hE => by
      have hlen : expectedLen c (partialFrame s ++ [b]) = some E := partialFrame_stored s b ▸ hE
      have hle := length_le_expectedLen_append (by simpa using h.assembler.unfinished ha) hlen
      rw [partialFrame_length] at hle
      exact Nat.lt_of_le_of_ne hle fun heq => hne (hlen.trans (congrArg some heq.symm)) }

/-- A byte stored that completes its frame, with the assembler released (R135). -/
theorem Inv.releaseFrame_stored (h : Inv c s) (hl : s.frameLen < c.maxFrame) (b : Byte) :
    Inv c (Machine.releaseFrame (Machine.stored b s)) :=
  h.withAssembler (stored_scratch_within h hl b) (assemblerInv_of_idle rfl rfl)

/-- Of the state before it, a reset keeps only the events (R261). -/
theorem applyReset_inv (h : OnlyResponses c s) : Inv c (applyReset s) where
  assembler := assemblerInv_of_idle rfl rfl
  session := sessionInv_of_empty reset_sessionEmpty
  memory := memoryInv_iff.mpr ⟨within_zeros _, within_zeros _, within_zeros _⟩
  responses := h

variable {run : Runner} (hrun : ∀ F s t, Inv c s → run F s = .next t → Inv c t)
include hrun

theorem ingest_keeps_inv (hroom : 1 ≤ c.maxFrame) {b : Byte} {t : State} (h : Inv c s)
    (ht : ingest c run b s = .next t) : Inv c t := by
  rcases ingest_cases ht with ⟨-, rfl⟩ | ⟨-, -, rfl⟩ | ⟨ha, hl, ⟨-, ht⟩ | ⟨hne, rfl⟩⟩
  · exact h.seek hroom b
  · exact h.overflow hroom b
  · exact hrun _ _ _ (h.releaseFrame_stored hl b) ht
  · exact h.stored ha hl hne

theorem takeInput_keeps_inv (hroom : 1 ≤ c.maxFrame) {t : State} (h : Inv c s)
    (ht : takeInput c run s = .next t) : Inv c t := by
  match hrx : s.rx with
  | [] =>
    simp only [takeInput, hrx] at ht
    exact Host.Outcome.next.inj ht ▸ h
  | .reset :: rest =>
    simp only [takeInput, hrx] at ht
    exact Host.Outcome.next.inj ht ▸ applyReset_inv h.responses
  | .byte b :: rest =>
    rw [takeInput_byte hrx] at ht
    exact ingest_keeps_inv hrun hroom (h.setRx rest) ht

end Assembler

/-- Settles O29: the reset state is the reset of itself, and holds no event. -/
theorem resetHasInvariant : Obligations.ResetHasInvariant := applyReset_inv (s := State.reset) nofun

/-- The parameter record leaves room for a header (R10). -/
theorem maxFrame_pos {c : Cfg} (hc : c.valid = true) : 1 ≤ c.maxFrame := by
  simp only [Cfg.valid, decide_eq_true_eq] at hc
  omega

/-- A step that answers a next state is the taking of an input under a `cfg` that meets R10. -/
theorem stepWith_next {c : Cfg} {s t : State} (h : stepWith c s = .next t) :
    c.valid = true ∧ takeInput c (dispatch c) s = .next t := by
  unfold stepWith at h
  split at h
  · exact ⟨‹_›, h⟩
  · cases h

/-- Settles O28: the assembler keeps the invariant around any runner that keeps it, and the dispatcher does. -/
theorem stepKeepsInvariantForEveryCfg : Obligations.StepKeepsInvariantForEveryCfg := by
  intro c s t hinv hstep
  obtain ⟨hvalid, htake⟩ := stepWith_next hstep
  exact takeInput_keeps_inv (fun _ _ _ => dispatch_keeps_inv) (maxFrame_pos hvalid) hinv htake

theorem runFrame_keeps_inv {F : List Byte} {s t : State} (h : Inv Cfg.device s) (hrun : runFrame F s = .next t) :
    Inv Cfg.device t := by
  obtain ⟨G, hG⟩ := runFrame_eq_dispatch F
  exact dispatch_keeps_inv h (hG s ▸ hrun)

/-- Settles O27: as for every `cfg`, a decoded frame being run as the dispatcher runs a frame. -/
theorem stepKeepsInvariant : Obligations.StepKeepsInvariant :=
  fun _ _ hinv hstep => takeInput_keeps_inv (fun _ _ _ => runFrame_keeps_inv) (maxFrame_pos (by decide)) hinv hstep

section Name
/-! `Name` after an accepted FILE_START (R40, R163). -/

/-- The FILE_START handler on a frame that passes its checks (R161). -/
theorem startHandler_accepts {c : Cfg} {F : List Byte} (hmin : c.minStart ≤ F.length)
    (hname : filenameLenOf F ≤ c.maxName - 1) (hlen : filenameLenOf F + 8 ≤ F.length) (hsize : fileSizeOf F ≤ c.maxFile)
    (hok : checksumOK F = true) (s : State) :
    startHandler c F s = .next (respond c .ready (openSession c (filenameOf F) (fileSizeOf F) s)) := by
  simp only [startHandler, Nat.not_lt.mpr hmin, Nat.not_lt.mpr hname, Nat.not_lt.mpr hlen, Nat.not_lt.mpr hsize,
    if_false, verifyStart, hok, if_true]

/-- A FILE_START within the bounds and with its right checksum opens the session of its operands (R165, R166). -/
theorem exec_fileStart_accepted {filename : List Byte} {size : Quad} {cs : Byte} (hname : filename.length ≤ 63)
    (hsize : size.toNat ≤ 10240)
    (hcs : cs = checksum ([0x81, 0x90, BitVec.ofNat 8 filename.length] ++ filename ++ be32Bytes size)) (s : State) :
    exec (.fileStart filename size cs) s =
      .next (respond Cfg.device .ready (openSession Cfg.device filename size.toNat s)) := by
  obtain ⟨-, hn, hf, hz⟩ := fileStart_operands Cfg.device filename size cs (by omega)
  have hlen : (encode (.fileStart filename size cs)).length = filename.length + 8 := encodeWith_length _ _
  have hok : checksumOK (encode (.fileStart filename size cs)) = true := by
    rw [encode, checksumOK_encode, beq_iff_eq]
    exact hcs.symm
  have hmin : Cfg.device.minStart ≤ filename.length + 8 := Nat.le_add_left _ _
  have h := startHandler_accepts (c := Cfg.device) (hlen ▸ hmin) (hn ▸ hname) (by rw [hlen, encode, hn]) (hz ▸ hsize) hok s
  rwa [encode, hf, hz] at h

/-- Settles O36: the session holds the filename from address 0 on over zeros. -/
theorem fileStartStoresName : Obligations.FileStartStoresName := by
  intro filename size cs s t hname hsize hcs hexec
  rw [exec_fileStart_accepted hname hsize hcs] at hexec
  obtain rfl := Host.Outcome.next.inj hexec
  refine ⟨?_, fun a => read_name_padding⟩
  have hroom : 0 + filename.length ≤ capacity Cfg.device .name := by
    simp only [capacity, Cfg.device]
    omega
  exact (readSpace_ok _ hroom).trans (congrArg Except.ok (readBytes_writeBytes Memory.zeros 0 filename))

end Name

section Hidden
/-! What R35, R42 and R45 leave open is never observed: every operation takes two states that look the same to two that do. -/

/-- Where `o` answers a next state, `o'` answers one that looks the same. -/
def Follows (o o' : Host.Outcome State Fault Refusal) : Prop :=
  ∀ t, o = .next t → ∃ t', o' = .next t' ∧ SameObservable t t'

theorem follows_next {t t' : State} (h : SameObservable t t') : Follows (.next t) (.next t') :=
  fun _ ht => ⟨t', rfl, Host.Outcome.next.inj ht ▸ h⟩

/-- Two outcomes that branch on the same test. -/
theorem follows_ite {p : Prop} [Decidable p] {o₁ o₁' o₂ o₂' : Host.Outcome State Fault Refusal}
    (hpos : p → Follows o₁ o₁') (hneg : ¬ p → Follows o₂ o₂') :
    Follows (if p then o₁ else o₂) (if p then o₁' else o₂') := by
  split
  · exact hpos ‹_›
  · exact hneg ‹_›

/-- Two outcomes behind accesses of which the second succeeds where the first does. -/
theorem follows_orFault {α : Type} {r r' : Except Fault α} {k k' : α → Host.Outcome State Fault Refusal}
    (h : ∀ a, r = .ok a → ∃ a', r' = .ok a' ∧ Follows (k a) (k' a')) : Follows (orFault r k) (orFault r' k') := by
  intro t ht
  obtain ⟨a, ha, hk⟩ := orFault_next ht
  obtain ⟨a', ha', hfollows⟩ := h a ha
  rw [ha', orFault_ok]
  exact hfollows t hk

variable {s s' : State}

theorem SameObservable.setRx (h : SameObservable s s') (r : List Input) :
    SameObservable { s with rx := r } { s' with rx := r } :=
  { h with rx := rfl }

theorem SameObservable.emit (h : SameObservable s s') (e : Event) : SameObservable (s.emit e) (s'.emit e) :=
  { h with trace := congrArg (· ++ [e]) h.trace }

theorem SameObservable.respond (h : SameObservable s s') (c : Cfg) (k : ResponseKind) :
    SameObservable (respond c k s) (respond c k s') := h.emit _

theorem SameObservable.raise (h : SameObservable s s') (c : Cfg) (e : ErrorCode) (info : List Nat) :
    SameObservable (raise c e info s) (raise c e info s') := by
  have hdiag := h.emit (.diag e info)
  unfold Machine.raise
  cases e.response with
  | none => exact hdiag
  | some k => exact hdiag.respond c k

/-- A cleared session is inactive, so that its fields need not agree. -/
theorem SameObservable.sessionClear (h : SameObservable s s') : SameObservable (sessionClear s) (sessionClear s') :=
  { h with active := rfl, session := nofun }

/-- An opened session has no field of the session before it (R167). -/
theorem SameObservable.openSession (h : SameObservable s s') (c : Cfg) (filename : List Byte) (size : Nat) :
    SameObservable (openSession c filename size s) (openSession c filename size s') :=
  { h with active := rfl, session := fun _ => ⟨rfl, rfl, rfl, rfl, rfl⟩ }

theorem SameObservable.writeBuffer (h : SameObservable s s') (addr : Nat) (v : List Byte) :
    SameObservable { s with buffer := s.buffer.writeBytes addr v } { s' with buffer := s'.buffer.writeBytes addr v } :=
  { h with session := fun ha =>
      have ⟨hname, hlen, hsize, hcount, hbuf⟩ := h.session ha
      ⟨hname, hlen, hsize, hcount, congrArg (·.writeBytes addr v) hbuf⟩ }

theorem SameObservable.countPacket (h : SameObservable s s') (c : Cfg) :
    SameObservable (countPacket c s) (countPacket c s') :=
  { h with session := fun ha =>
      have ⟨hname, hlen, hsize, hcount, hbuf⟩ := h.session ha
      ⟨hname, hlen, hsize, congrArg (fun n => (n + 1) % 2 ^ c.countWidth) hcount, hbuf⟩ }

/-- The count of an active session is compared (R184). -/
theorem SameObservable.warnCount (h : SameObservable s s') (ha : s.active = true) (total : Nat) :
    SameObservable (warnCount total s) (warnCount total s') := by
  have ⟨_, _, _, hcount, _⟩ := h.session ha
  unfold Machine.warnCount
  rw [hcount]
  split
  · exact h
  · exact h.emit _

theorem startHandler_follows (c : Cfg) (F : List Byte) (h : SameObservable s s') :
    Follows (startHandler c F s) (startHandler c F s') := by
  have hopen := h.openSession c (filenameOf F) (fileSizeOf F)
  have hverify : SameObservable (verifyStart c F (openSession c (filenameOf F) (fileSizeOf F) s))
      (verifyStart c F (openSession c (filenameOf F) (fileSizeOf F) s')) := by
    unfold verifyStart
    split
    · exact hopen.respond c .ready
    · exact hopen.sessionClear.raise c _ _
  have hrefuse (e : ErrorCode) (info : List Nat) := follows_next (h.raise c e info)
  exact follows_ite (fun _ => hrefuse _ _) fun _ => follows_ite (fun _ => hrefuse _ _) fun _ =>
    follows_ite (fun _ => hrefuse _ _) fun _ => follows_ite (fun _ => hrefuse _ _) fun _ => follows_next hverify

/-- Whether a payload may be copied depends on its place alone. -/
theorem copyPayload_follows {c : Cfg} {now : Bool} {F : List Byte} {t : State} (h : SameObservable s s')
    (ht : copyPayload c now F s = .ok t) : ∃ t', copyPayload c now F s' = .ok t' ∧ SameObservable t t' := by
  cases now with
  | false => exact ⟨s', rfl, Except.ok.inj ht ▸ h⟩
  | true =>
    obtain ⟨hfit, rfl⟩ := memWrite_cases ht
    exact ⟨_, memWrite_ok s' hfit, h.writeBuffer _ _⟩

theorem storePacket_follows (c : Cfg) (F : List Byte) (h : SameObservable s s') :
    Follows (storePacket c F s) (storePacket c F s') := by
  refine follows_orFault fun s₁ h₁ => ?_
  obtain ⟨s₁', h₁', hsame₁⟩ := copyPayload_follows h h₁
  refine ⟨s₁', h₁', follows_ite (fun _ => follows_orFault fun s₂ h₂ => ?_)
    fun _ => follows_next (hsame₁.raise c _ _)⟩
  obtain ⟨s₂', h₂', hsame₂⟩ := copyPayload_follows hsame₁ h₂
  exact ⟨s₂', h₂', follows_next ((hsame₂.countPacket c).respond c .ack)⟩

theorem dataHandler_follows (c : Cfg) (F : List Byte) (h : SameObservable s s') :
    Follows (dataHandler c F s) (dataHandler c F s') := by
  have hrefuse (e : ErrorCode) (info : List Nat) := follows_next (h.raise c e info)
  unfold dataHandler
  rw [← h.active]
  exact follows_ite (fun _ => hrefuse _ _) fun _ => follows_ite (fun _ => hrefuse _ _) fun _ =>
    follows_ite (fun _ => hrefuse _ _) fun _ => follows_ite (fun _ => hrefuse _ _) fun _ =>
    follows_ite (fun _ => hrefuse _ _) fun _ => follows_ite (fun _ => hrefuse _ _) fun _ => storePacket_follows c F h

/-- The file of an active session is stored from fields that agree (R83). -/
theorem storeFile_follows (c : Cfg) (h : SameObservable s s') (ha : s.active = true) :
    Follows (storeFile c s) (storeFile c s') := by
  obtain ⟨hname, hlen, hsize, -, hbuf⟩ := h.session ha
  have hreadName : readSpace c .name 0 s.nameLen s = readSpace c .name 0 s'.nameLen s' := by
    simp only [readSpace, State.space, hname, hlen]
  have hreadBuf : readSpace c .buffer 0 s.declaredSize.toNat s = readSpace c .buffer 0 s'.declaredSize.toNat s' := by
    simp only [readSpace, State.space, hsize, hbuf]
  refine follows_orFault fun filename hf => ⟨filename, hreadName ▸ hf, ?_⟩
  refine follows_orFault fun data hd => ⟨data, hreadBuf ▸ hd, ?_⟩
  rw [hsize]
  exact follows_next ((h.emit _).respond c .ack).sessionClear

theorem endHandler_follows (c : Cfg) (F : List Byte) (h : SameObservable s s') :
    Follows (endHandler c F s) (endHandler c F s') := by
  unfold endHandler
  rw [← h.active]
  refine follows_ite (fun _ => follows_next (h.raise c _ _)) fun ha => ?_
  have ha : s.active = true := by simpa using ha
  exact follows_ite (fun _ => follows_next (h.raise c _ _)) fun _ =>
    follows_ite (fun _ => follows_next (h.sessionClear.raise c _ _)) fun _ =>
    storeFile_follows c (h.warnCount ha _) (by simpa using ha)

theorem dispatch_follows (c : Cfg) (F : List Byte) (h : SameObservable s s') :
    Follows (dispatch c F s) (dispatch c F s') :=
  follows_ite (fun _ => startHandler_follows c F h) fun _ => follows_ite (fun _ => dataHandler_follows c F h) fun _ =>
    follows_ite (fun _ => endHandler_follows c F h) fun _ => follows_next (h.raise c _ _)

theorem runFrame_follows (F : List Byte) (h : SameObservable s s') : Follows (runFrame F s) (runFrame F s') := by
  obtain ⟨G, hG⟩ := runFrame_eq_dispatch F
  rw [hG, hG]
  exact dispatch_follows Cfg.device G h

/-- With no frame begun, every byte of `Scratch` is stale. -/
theorem SameObservable.releaseFrame (h : SameObservable s s') : SameObservable (releaseFrame s) (releaseFrame s') :=
  { h with asmState := rfl, frameLen := rfl, partialFrame := rfl }

/-- A begun frame is its header, whatever was in `Scratch` (R35, R132). -/
theorem SameObservable.startFrame (h : SameObservable s s') (c : Cfg) :
    SameObservable (startFrame c s) (startFrame c s') :=
  have hpartial (u : State) : Machine.partialFrame (Machine.startFrame c u) = [c.header] :=
    readBytes_write_end u.scratch 0 0 c.header
  { h with asmState := rfl, frameLen := rfl, partialFrame := (hpartial s).trans (hpartial s').symm }

theorem SameObservable.seek (h : SameObservable s s') (c : Cfg) (b : Byte) : SameObservable (seek c b s) (seek c b s') := by
  unfold Machine.seek
  split
  · exact h.startFrame c
  · exact h

theorem SameObservable.overflow (h : SameObservable s s') (c : Cfg) (b : Byte) :
    SameObservable (overflow c b s) (overflow c b s') := by
  have hraised := h.releaseFrame.raise c .frameOverflow [b.toNat]
  unfold Machine.overflow
  cases c.overflowPolicy with
  | drop => exact hraised
  | reexamine => exact hraised.seek c b

theorem SameObservable.stored (h : SameObservable s s') (b : Byte) : SameObservable (stored b s) (stored b s') :=
  { h with
    frameLen := congrArg (· + 1) h.frameLen
    partialFrame := by rw [partialFrame_stored, partialFrame_stored, h.partialFrame] }

section Runner
variable {run : Runner} (hrun : ∀ F s s', SameObservable s s' → Follows (run F s) (run F s'))
include hrun

theorem ingest_follows (c : Cfg) (b : Byte) (h : SameObservable s s') :
    Follows (ingest c run b s) (ingest c run b s') := by
  intro t ht
  rcases ingest_cases ht with ⟨ha, rfl⟩ | ⟨ha, hfull, rfl⟩ | ⟨ha, hl, hstore⟩
  · refine ⟨_, ?_, h.seek c b⟩
    simp only [ingest, ← h.asmState, ha]
  · refine ⟨_, ?_, h.overflow c b⟩
    simp only [ingest, ← h.asmState, ha, ← h.frameLen, hfull, if_true]
  · rw [ingest_store (h.asmState ▸ ha) (h.frameLen ▸ hl), ← h.partialFrame, ← h.frameLen]
    rcases hstore with ⟨hlen, ht⟩ | ⟨hlen, rfl⟩
    · rw [if_pos hlen]
      exact hrun _ _ _ (h.stored b).releaseFrame t ht
    · rw [if_neg hlen]
      exact ⟨_, rfl, h.stored b⟩

theorem takeInput_follows (c : Cfg) (h : SameObservable s s') : Follows (takeInput c run s) (takeInput c run s') := by
  match hrx : s.rx with
  | [] =>
    simp only [takeInput, ← h.rx, hrx]
    exact follows_next h
  | .reset :: rest =>
    simp only [takeInput, ← h.rx, hrx]
    exact follows_next ⟨rfl, rfl, rfl, rfl, nofun, rfl, h.trace⟩
  | .byte b :: rest =>
    rw [takeInput_byte hrx, takeInput_byte (h.rx ▸ hrx)]
    exact ingest_follows hrun c b (h.setRx rest)

end Runner

/-- Settles O33: the two states take the same branch at every test, because each test reads what they agree on. -/
theorem hiddenStateIsUnobservable : Obligations.HiddenStateIsUnobservable :=
  fun _ _ t hsame hstep => takeInput_follows (fun F _ _ => runFrame_follows F) Cfg.device hsame t hstep

end Hidden

end Sys2Proof.Machine

/-! Family 20_memory.md: the checked accesses to the receive buffer (R63, R64), where a payload lands (R66, R69), what an
untouched byte is stored as (R65), when the sink is called (R82, R83), and the ports (R80, R84, R85). -/

namespace Sys2Proof.Machine

open MemoryLaws

section NoInput
/-! An empty input queue (R80). -/

theorem takeInput_empty {c : Cfg} {run : Runner} {s : State} (h : s.rx = []) : takeInput c run s = .next s := by
  simp only [takeInput, h]

theorem takeInput_reset {c : Cfg} {run : Runner} {s : State} {rest : List Input} (h : s.rx = .reset :: rest) :
    takeInput c run s = .next (applyReset { s with rx := rest }) := by
  simp only [takeInput, h]

/-- Settles O25: the partial frame plays no part, the step being the taking of an input. -/
theorem noInputNoChange : Obligations.NoInputNoChange := fun _ h => takeInput_empty h

end NoInput

section Accesses
/-! The checked accesses (R63, R64): where they succeed, and where they fault. -/

theorem memWrite_fault {c : Cfg} {addr : Nat} {v : List Byte} (s : State) (h : c.maxFile < addr + v.length) :
    memWrite c addr v s = .error (.writeOutOfRange .buffer addr v.length) := if_neg (Nat.not_le.mpr h)

theorem readSpace_fault {c : Cfg} {sp : Space} {addr n : Nat} (s : State) (h : capacity c sp < addr + n) :
    readSpace c sp addr n s = .error (.readOutOfRange sp addr n) := if_neg (Nat.not_le.mpr h)

/-- The frame of a write of several bytes. -/
theorem read_writeBytes_outside {m : Memory} {addr a : Nat} {v : List Byte} (h : ¬ (addr ≤ a ∧ a < addr + v.length)) :
    (m.writeBytes addr v).read a = m.read a := by
  rw [read_writeBytes, if_neg h]

/-- Byte `k` of a write of several bytes, at its own address. -/
theorem read_writeBytes_inside (m : Memory) (addr : Nat) {k : Nat} {v : List Byte} (h : k < v.length) :
    (m.writeBytes addr v).read (addr + k) = byteAt v k := by
  rw [read_writeBytes, if_pos (by omega), Nat.add_sub_cancel_left, byteAt]

/-- Settles O55: both accesses make the same bounds check, so what is written inside the buffer can be read back. -/
theorem bufferAccessesAreChecked : Obligations.BufferAccessesAreChecked := by
  intro c addr v s
  constructor
  · intro hfit
    refine ⟨_, memWrite_ok s hfit, rfl, ?_, fun a => read_writeBytes_outside⟩
    exact (readSpace_ok _ hfit).trans (congrArg Except.ok (readBytes_writeBytes s.buffer addr v))
  · exact fun hout => ⟨memWrite_fault s hout, readSpace_fault s hout⟩

end Accesses

section Payload
/-! A FILE_DATA that passes its bounds check (R66, R69, R175). -/

/-- The state with the bytes `data` written from `addr` on. -/
def written (addr : Nat) (data : List Byte) (s : State) : State :=
  { s with buffer := s.buffer.writeBytes addr data }

/-- Under `WRITE_BEFORE_VERIFY` the payload is stored, and the checksum decides the answer only (R175, R171). -/
theorem storePacket_writes_first {c : Cfg} {F : List Byte} (hw : c.writeBeforeVerify = true)
    (hfit : packetOffset c (seqNumOf F) + dataLenOf F ≤ c.maxFile) (s : State) :
    storePacket c F s = .next (
      if checksumOK F then respond c .ack (countPacket c (written (packetOffset c (seqNumOf F)) (dataOf F) s))
      else raise c .dataChecksum [seqNumOf F] (written (packetOffset c (seqNumOf F)) (dataOf F) s)) := by
  have hlen := dataOf_length_le F
  have hcopy : copyPayload c true F s = .ok (written (packetOffset c (seqNumOf F)) (dataOf F) s) :=
    memWrite_ok s (by omega)
  have hskip (s₁ : State) : copyPayload c false F s₁ = .ok s₁ := rfl
  simp only [storePacket, hw, Bool.not_true, hcopy, hskip, orFault_ok, apply_ite Host.Outcome.next]

/-- The FILE_DATA handler on a frame that passes the checks before the copy (R170). -/
theorem dataHandler_inBounds {c : Cfg} {F : List Byte} {s : State} (ha : s.active = true)
    (hmin : c.minData ≤ F.length) (hpayload : dataLenOf F ≤ c.maxPayload) (hlen : dataLenOf F + 6 ≤ F.length)
    (hseq : 1 ≤ seqNumOf F) (hfit : packetOffset c (seqNumOf F) + dataLenOf F ≤ c.maxFile) :
    dataHandler c F s = storePacket c F s := by
  simp only [dataHandler, ha, Bool.true_eq_false, Nat.not_lt.mpr hmin, Nat.not_lt.mpr hpayload, Nat.not_lt.mpr hlen,
    Nat.ne_of_gt hseq, Nat.not_lt.mpr hfit, if_false]

/-- A FILE_DATA inside the buffer of an active session stores its payload; its checksum decides the answer only. -/
theorem exec_fileData_inBounds {seq : Half} {data : List Byte} {s : State} (cs : Byte) (ha : s.active = true)
    (hlen : data.length ≤ 255) (hseq : 1 ≤ seq.toNat) (hfit : (seq.toNat - 1) * 256 + data.length ≤ 10240) :
    exec (.fileData seq data cs) s = .next (
      if checksum ([0x81, 0x91] ++ be16Bytes seq ++ [BitVec.ofNat 8 data.length] ++ data) = cs then
        respond Cfg.device .ack (countPacket Cfg.device (written ((seq.toNat - 1) * 256) data s))
      else raise Cfg.device .dataChecksum [seq.toNat] (written ((seq.toNat - 1) * 256) data s)) := by
  obtain ⟨-, hs, hn, hd⟩ := fileData_operands Cfg.device seq data cs hlen
  have hframe : (encodeWith Cfg.device (.fileData seq data cs)).length = data.length + 6 := encodeWith_length _ _
  have hok : checksumOK (encodeWith Cfg.device (.fileData seq data cs)) =
      (checksum ([0x81, 0x91] ++ be16Bytes seq ++ [BitVec.ofNat 8 data.length] ++ data) == cs) := checksumOK_encode _ _
  have hoff : packetOffset Cfg.device seq.toNat = (seq.toNat - 1) * 256 := rfl
  change dataHandler Cfg.device (encodeWith Cfg.device (.fileData seq data cs)) s = _
  generalize encodeWith Cfg.device (.fileData seq data cs) = F at *
  have hbounds : packetOffset Cfg.device (seqNumOf F) + dataLenOf F ≤ Cfg.device.maxFile := by
    rw [hs, hn]
    exact hfit
  rw [dataHandler_inBounds ha (hframe ▸ Nat.le_add_left 6 _) (hn ▸ Nat.le_succ_of_le hlen) (by rw [hn, hframe])
    (hs ▸ hseq) hbounds, storePacket_writes_first rfl hbounds, hs, hd, hok, hoff]
  simp only [beq_iff_eq]

/-- Settles O44: neither answer touches the buffer after the copy. -/
theorem payloadByteLandsAtItsAddress : Obligations.PayloadByteLandsAtItsAddress := by
  intro seq data cs s t k ha hlen hseq hfit hk hexec
  rw [exec_fileData_inBounds cs ha hlen hseq hfit] at hexec
  obtain rfl := Host.Outcome.next.inj hexec
  rw [apply_ite State.buffer, respond_buffer, countPacket_buffer, raise_buffer, ite_self]
  exact read_writeBytes_inside s.buffer _ hk

end Payload

section Unwritten
/-! What the packets of a session leave alone (R65, R185), accepted or refused. -/

/-- What any FILE_DATA frames of a session leave as it was: the session, and the buffer outside the packets' places. -/
structure LeftByPackets (packets : List Packet) (s t : State) : Prop where
  active : t.active = s.active
  name : t.name = s.name
  nameLen : t.nameLen = s.nameLen
  declaredSize : t.declaredSize = s.declaredSize
  uncovered : ∀ a, (∀ p ∈ packets, ¬ p.Covers a) → t.buffer.read a = s.buffer.read a

theorem LeftByPackets.append {ps qs : List Packet} {s t u : State} (h : LeftByPackets ps s t)
    (h' : LeftByPackets qs t u) : LeftByPackets (ps ++ qs) s u where
  active := h'.active.trans h.active
  name := h'.name.trans h.name
  nameLen := h'.nameLen.trans h.nameLen
  declaredSize := h'.declaredSize.trans h.declaredSize
  uncovered a ha :=
    (h'.uncovered a fun p hp => ha p (List.mem_append_right ps hp)).trans
      (h.uncovered a fun p hp => ha p (List.mem_append_left qs hp))

theorem LeftByPackets.respond {ps : List Packet} {s t : State} (h : LeftByPackets ps s t) (c : Cfg)
    (k : ResponseKind) : LeftByPackets ps s (respond c k t) :=
  ⟨h.active, h.name, h.nameLen, h.declaredSize, h.uncovered⟩

theorem LeftByPackets.raise {ps : List Packet} {s t : State} (h : LeftByPackets ps s t) (c : Cfg) (e : ErrorCode)
    (info : List Nat) : LeftByPackets ps s (raise c e info t) :=
  ⟨(raise_active ..).trans h.active, (raise_name ..).trans h.name, (raise_nameLen ..).trans h.nameLen,
    (raise_declaredSize ..).trans h.declaredSize, by simpa only [raise_buffer] using h.uncovered⟩

theorem LeftByPackets.countPacket {ps : List Packet} {s t : State} (h : LeftByPackets ps s t) (c : Cfg) :
    LeftByPackets ps s (countPacket c t) :=
  ⟨h.active, h.name, h.nameLen, h.declaredSize, h.uncovered⟩

theorem LeftByPackets.refl (ps : List Packet) (s : State) : LeftByPackets ps s s :=
  ⟨rfl, rfl, rfl, rfl, fun _ _ => rfl⟩

/-- A packet with a place writes inside it. -/
theorem LeftByPackets.written {p : Packet} (hseq : 1 ≤ p.seqNum.toNat) (s : State) :
    LeftByPackets [p] s (written ((p.seqNum.toNat - 1) * 256) p.data s) where
  active := rfl
  name := rfl
  nameLen := rfl
  declaredSize := rfl
  uncovered _ ha := read_writeBytes_outside fun hin => ha p (List.mem_singleton_self p) ⟨hseq, hin⟩

/-- A packet runs in every state, and a refusal before its copy writes nothing but the trace. -/
theorem exec_packet (p : Packet) (hlen : p.data.length ≤ 255) (s : State) :
    ∃ t, exec p.instr s = .next t ∧ LeftByPackets [p] s t := by
  obtain ⟨-, hs, -, hd⟩ := fileData_operands Cfg.device p.seqNum p.data p.checksum hlen
  obtain ⟨t, ht⟩ := dataHandler_next Cfg.device (encode p.instr) s
  refine ⟨t, ht, ?_⟩
  rcases dataHandler_cases ht with ⟨e, info, -, rfl⟩ | ⟨-, -, hseq, -, hanswer⟩
  · exact (LeftByPackets.refl [p] s).raise _ e info
  rw [encode, Packet.instr, hs] at hseq hanswer
  rw [hd] at hanswer
  rcases hanswer with ⟨-, rfl⟩ | ⟨-, rfl⟩
  · exact ((LeftByPackets.written hseq s).countPacket _).respond _ _
  · exact (LeftByPackets.written hseq s).raise _ _ _

theorem execAll_packets {packets : List Packet} (hlen : ∀ p ∈ packets, p.data.length ≤ 255) (s : State) :
    ∃ t, execAll (packets.map Packet.instr) s = .next t ∧ LeftByPackets packets s t := by
  induction packets generalizing s with
  | nil => exact ⟨s, rfl, .refl [] s⟩
  | cons p ps ih =>
    obtain ⟨s₁, hrun, hfirst⟩ := exec_packet p (hlen p List.mem_cons_self) s
    obtain ⟨t, hrest, hleft⟩ := ih (fun q hq => hlen q (List.mem_cons_of_mem p hq)) s₁
    exact ⟨t, (execAll_next hrun).trans hrest, hfirst.append hleft⟩

/-- The state an accepted FILE_END leaves (R181, R184). -/
def fileStored (c : Cfg) (total : Nat) (s : State) : State :=
  sessionClear (respond c .ack ((warnCount total s).emit
    (.store (s.name.readBytes 0 s.nameLen) (s.buffer.readBytes 0 s.declaredSize.toNat) s.declaredSize.toNat)))

/-- The FILE_END handler on a frame that passes its checks (R180). -/
theorem endHandler_accepts {c : Cfg} {F : List Byte} {s : State} (ha : s.active = true) (hmin : c.minEnd ≤ F.length)
    (hok : checksumOK F = true) (hname : s.nameLen ≤ c.maxName) (hsize : s.declaredSize.toNat ≤ c.maxFile) :
    endHandler c F s = .next (fileStored c (totalPacketsOf F) s) := by
  have hnameRead : readSpace c .name 0 s.nameLen (warnCount (totalPacketsOf F) s) =
      .ok (s.name.readBytes 0 s.nameLen) := by
    rw [readSpace_ok _ (by simpa [capacity] using hname), State.space, warnCount_name]
  have hdataRead : readSpace c .buffer 0 s.declaredSize.toNat (warnCount (totalPacketsOf F) s) =
      .ok (s.buffer.readBytes 0 s.declaredSize.toNat) := by
    rw [readSpace_ok _ (by simpa [capacity] using hsize), State.space, warnCount_buffer]
  simp only [endHandler, ha, hok, Bool.true_eq_false, Nat.not_lt.mpr hmin, if_false, storeFile, warnCount_nameLen,
    warnCount_declaredSize, hnameRead, hdataRead, orFault_ok, fileStored]

/-- A FILE_END with its right checksum in an active session within its bounds (R180, R181). -/
theorem exec_fileEnd_accepted {total : Half} {cs : Byte} {s : State} (ha : s.active = true) (hname : s.nameLen ≤ 64)
    (hsize : s.declaredSize.toNat ≤ 10240) (hcs : cs = checksum ([0x81, 0x92] ++ be16Bytes total)) :
    exec (.fileEnd total cs) s = .next (fileStored Cfg.device total.toNat s) := by
  obtain ⟨-, htotal⟩ := fileEnd_operands Cfg.device total cs
  have hlen : (encode (.fileEnd total cs)).length = 5 := encodeWith_length _ _
  have hok : checksumOK (encode (.fileEnd total cs)) = true := by
    rw [encode, checksumOK_encode, beq_iff_eq]
    exact hcs.symm
  have h := endHandler_accepts (c := Cfg.device) ha (hlen ▸ Nat.le_refl 5) hok hname hsize
  rwa [encode, htotal] at h

/-- The events of an accepted FILE_END: the warning of a wrong count, the `Store`, the ACK (R181, R184). -/
theorem fileStored_trace (c : Cfg) (total : Nat) (s : State) :
    (fileStored c total s).trace = s.trace ++
      ((if total = s.receivedPacketCount then [] else [.diag .endCountMismatch [total, s.receivedPacketCount]]) ++
      [.store (s.name.readBytes 0 s.nameLen) (s.buffer.readBytes 0 s.declaredSize.toNat) s.declaredSize.toNat,
       .tx (responseFrame c .ack)]) := by
  simp only [fileStored, sessionClear_trace, respond_trace, emit_trace, warnCount_trace, List.append_assoc,
    List.cons_append, List.nil_append]

/-- Past the end of the bytes read there is no byte, which `byteAt` gives as zero too. -/
theorem byteAt_readBytes_of_read_eq_zero {m : Memory} {a : Nat} (n : Nat) (h : m.read a = 0) :
    byteAt (m.readBytes 0 n) a = 0 := by
  rcases Nat.lt_or_ge a n with hin | hout
  · rw [byteAt, readBytes_getD m 0 n a hin, Nat.zero_add, h]
  · exact List.getD_eq_default _ _ (by rwa [readBytes_length])

/-- Settles O49: FILE_START zeroes the buffer, the packets write inside their places alone, and FILE_END reads it. -/
theorem unwrittenBytesAreStoredAsZero : Obligations.UnwrittenBytesAreStoredAsZero := by
  intro filename size packets total s hname hsize hlen
  have hopen := exec_fileStart_accepted hname hsize rfl s
  obtain ⟨s₁, hrun, hleft⟩ := execAll_packets hlen
    (respond Cfg.device .ready (openSession Cfg.device filename size.toNat s))
  have hactive : s₁.active = true := hleft.active
  have hnameLen : s₁.nameLen = filename.length := hleft.nameLen
  have hdeclared : s₁.declaredSize = size := hleft.declaredSize.trans (BitVec.ofNat_toNat 32 size)
  have hnameRead : s₁.name.readBytes 0 s₁.nameLen = filename := by
    rw [hleft.name, hnameLen]
    exact readBytes_writeBytes Memory.zeros 0 filename
  have hend := exec_fileEnd_accepted (total := total) hactive (by omega) (by rwa [hdeclared]) rfl
  refine ⟨s₁, _, s₁.buffer.readBytes 0 size.toNat, (execAll_next hopen).trans hrun, hend, ?_,
    readBytes_length _ _ _, ?_⟩
  · rw [fileStored_trace, List.drop_left, hnameRead, hdeclared]
    exact List.mem_append_right _ List.mem_cons_self
  · intro a ha
    exact byteAt_readBytes_of_read_eq_zero _ (hleft.uncovered a ha)

end Unwritten

section Untraced
/-! A step from a state with a past is the step with none, the past put before its events (R14, R73). -/

theorem step_untraced {s t : State} (h : step s = .next t) :
    ∃ u, step { s with trace := [] } = .next u ∧ t = u.precededBy s.trace := by
  have hs : ({ s with trace := [] } : State).precededBy s.trace = s := precededBy_untraced s.trace s
  rw [← hs, step_precededBy] at h
  exact precedeNext_eq_next s.trace h

theorem precededBy_trace (past : List Event) (s : State) : (s.precededBy past).trace = past ++ s.trace := rfl

/-- A step takes no event back (R73). -/
theorem step_trace_append {s t : State} (h : step s = .next t) :
    t.trace = s.trace ++ t.trace.drop s.trace.length := by
  obtain ⟨u, -, rfl⟩ := step_untraced h
  rw [precededBy_trace, List.drop_left]

end Untraced

section Ports
/-! The ports carry the trace's transfers in order (R84, R85). -/

@[simp] theorem transfersOf_append (l l' : List Event) : transfersOf (l ++ l') = transfersOf l ++ transfersOf l' :=
  List.flatMap_append

/-- The transfers on the ports are those of the trace. -/
def PortState.InStep (p : PortState) : Prop := p.sent ++ p.pending = transfersOf p.block.trace

theorem PortState.pending_eq_nil {p : PortState} (h : p.rxReady = true) : p.pending = [] := List.isEmpty_iff.mp h

/-- An input is taken with nothing pending, so that the outputs of its step come right after those sent (R85). -/
theorem portTake_inStep {p q : PortState} (h : p.InStep) (hq : portTake p = .next q) : q.InStep := by
  unfold portTake at hq
  split at hq
  · next hready =>
    split at hq
    · next t hstep =>
      obtain rfl := Host.Outcome.next.inj hq
      have hsent : p.sent = transfersOf p.block.trace := by
        rw [← h, PortState.pending_eq_nil hready, List.append_nil]
      calc p.sent ++ transfersOf (t.trace.drop p.block.trace.length)
        _ = transfersOf (p.block.trace ++ t.trace.drop p.block.trace.length) := by rw [hsent, transfersOf_append]
        _ = transfersOf t.trace := by rw [← step_trace_append hstep]
    · cases hq
    · cases hq
  · exact Host.Outcome.next.inj hq ▸ h

/-- An output handed over moves from the pending ones to the sent ones (R81). -/
theorem portHandOver_inStep {p : PortState} (h : p.InStep) : (portHandOver p).InStep := by
  unfold portHandOver
  split
  · exact h
  · next t rest hpending =>
    rw [PortState.InStep, hpending] at h
    simpa [PortState.InStep] using h

/-- A reset leaves the trace (R261). -/
theorem portReset_inStep {p q : PortState} (h : p.InStep) (hq : portReset p = .next q) : q.InStep := by
  unfold portReset at hq
  split at hq
  · exact Host.Outcome.next.inj hq ▸ h
  · cases hq

/-- Settles O60, transition by transition. -/
theorem portTransfersFollowTrace : Obligations.PortTransfersFollowTrace :=
  fun _ _ h => ⟨portTake_inStep h, portHandOver_inStep h, portReset_inStep h⟩

end Ports

section Reading
/-! What the decoder reads is what the encoder writes (R91 to R95), field by field, so that a completed frame runs as the
dispatcher runs its bytes (R160). -/

variable {F : List Byte}

theorem drop_eq_byteAt_cons {i : Nat} (h : i < F.length) : F.drop i = byteAt F i :: F.drop (i + 1) := by
  rw [List.drop_eq_getElem_cons h, byteAt, List.getD_eq_getElem _ _ h]

theorem drop_eq_slice_append (F : List Byte) (i n : Nat) : F.drop i = slice F i n ++ F.drop (i + n) := by
  rw [slice, ← List.drop_drop, List.take_append_drop]

theorem be16Bytes_be16 (F : List Byte) (i : Nat) :
    be16Bytes (BitVec.ofNat 16 (be16 F i)) = [byteAt F i, byteAt F (i + 1)] := by
  have h0 := (byteAt F i).isLt
  have h1 := (byteAt F (i + 1)).isLt
  simp only [be16Bytes, be16, List.cons.injEq, and_true, ← BitVec.toNat_inj, BitVec.toNat_ofNat]
  omega

theorem be32Bytes_be32 (F : List Byte) (i : Nat) :
    be32Bytes (BitVec.ofNat 32 (be32 F i)) = [byteAt F i, byteAt F (i + 1), byteAt F (i + 2), byteAt F (i + 3)] := by
  have h0 := (byteAt F i).isLt
  have h1 := (byteAt F (i + 1)).isLt
  have h2 := (byteAt F (i + 2)).isLt
  have h3 := (byteAt F (i + 3)).isLt
  simp only [be32Bytes, be32, List.cons.injEq, and_true, ← BitVec.toNat_inj, BitVec.toNat_ofNat]
  omega

theorem drop_eq_be16Bytes_append {i : Nat} (h : i + 2 ≤ F.length) :
    F.drop i = be16Bytes (BitVec.ofNat 16 (be16 F i)) ++ F.drop (i + 2) := by
  rw [be16Bytes_be16, drop_eq_byteAt_cons (by omega), drop_eq_byteAt_cons (by omega)]
  rfl

theorem drop_eq_be32Bytes_append {i : Nat} (h : i + 4 ≤ F.length) :
    F.drop i = be32Bytes (BitVec.ofNat 32 (be32 F i)) ++ F.drop (i + 4) := by
  rw [be32Bytes_be32, drop_eq_byteAt_cons (by omega), drop_eq_byteAt_cons (by omega), drop_eq_byteAt_cons (by omega),
    drop_eq_byteAt_cons (by omega)]
  rfl

/-- The length byte before a field of that length. -/
theorem ofNat_slice_length {i n : Nat} {b : Byte} (hn : n = b.toNat) (h : i + n ≤ F.length) :
    BitVec.ofNat 8 (slice F i n).length = b := by
  have hlen : (slice F i n).length = b.toNat := by
    rw [slice, List.length_take, List.length_drop]
    omega
  rw [hlen, BitVec.ofNat_toNat, BitVec.setWidth_eq]

variable {c : Cfg} {i : Instr} {rest : List Byte}

theorem takeFrame_ok {L : Nat} {j : Instr} (h : takeFrame F L j = .ok (i, rest)) :
    L ≤ F.length ∧ i = j ∧ rest = F.drop L := by
  unfold takeFrame at h
  split at h
  · cases h
  · next hlen =>
    cases h
    exact ⟨Nat.le_of_not_lt hlen, rfl, rfl⟩

theorem decodeFileStart_reads (h : decodeFileStart F = .ok (i, rest)) :
    c.header :: c.cmdFileStart :: F.drop 2 = encodeWith c i ++ rest := by
  unfold decodeFileStart at h
  split at h
  · cases h
  obtain ⟨hlen, rfl, rfl⟩ := takeFrame_ok h
  have hname := ofNat_slice_length rfl (show 3 + (byteAt F 2).toNat ≤ F.length by omega)
  rw [drop_eq_byteAt_cons (by omega), drop_eq_slice_append F 3 (byteAt F 2).toNat, drop_eq_be32Bytes_append (by omega),
    show 3 + (byteAt F 2).toNat + 4 = 7 + (byteAt F 2).toNat by omega, drop_eq_byteAt_cons (by omega),
    show 7 + (byteAt F 2).toNat + 1 = (byteAt F 2).toNat + 8 by omega]
  simp only [encodeWith, encodeBody, checksumField, hname, List.append_assoc, List.cons_append, List.nil_append]

theorem decodeFileData_reads (h : decodeFileData F = .ok (i, rest)) :
    c.header :: c.cmdFileData :: F.drop 2 = encodeWith c i ++ rest := by
  unfold decodeFileData at h
  split at h
  · cases h
  obtain ⟨hlen, rfl, rfl⟩ := takeFrame_ok h
  have hdata := ofNat_slice_length rfl (show 5 + (byteAt F 4).toNat ≤ F.length by omega)
  rw [drop_eq_be16Bytes_append (by omega), drop_eq_byteAt_cons (by omega), drop_eq_slice_append F 5 (byteAt F 4).toNat,
    drop_eq_byteAt_cons (by omega), show 5 + (byteAt F 4).toNat + 1 = (byteAt F 4).toNat + 6 by omega]
  simp only [encodeWith, encodeBody, checksumField, hdata, List.append_assoc, List.cons_append, List.nil_append]

theorem decodeFileEnd_reads (h : decodeFileEnd F = .ok (i, rest)) :
    c.header :: c.cmdFileEnd :: F.drop 2 = encodeWith c i ++ rest := by
  obtain ⟨hlen, rfl, rfl⟩ := takeFrame_ok h
  rw [drop_eq_be16Bytes_append (by omega), drop_eq_byteAt_cons (by omega)]
  rfl

/-- A frame of two fixed bytes and its checksum byte. -/
theorem takeFrame_response_reads {j : Instr} {cmd : Byte} (hj : encodeWith c j = [c.header, cmd, byteAt F 2])
    (h : takeFrame F 3 j = .ok (i, rest)) : c.header :: cmd :: F.drop 2 = encodeWith c i ++ rest := by
  obtain ⟨hlen, rfl, rfl⟩ := takeFrame_ok h
  rw [drop_eq_byteAt_cons (by omega), hj]
  rfl

/-- The decoder reads a frame from its encoding and leaves the bytes after it (R92 to R96). -/
theorem decodeWith_reads (h : decodeWith c F = .ok (i, rest)) : F = encodeWith c i ++ rest := by
  unfold decodeWith at h
  split at h
  · cases h
  split at h
  · cases h
  next hheader =>
  split at h
  · cases h
  next hlen =>
  have hF : F = c.header :: byteAt F 1 :: F.drop 2 := by
    rw [← not_not.mp hheader, ← drop_eq_byteAt_cons (by omega)]
    exact drop_eq_byteAt_cons (i := 0) (by omega)
  split at h
  · next hcmd => exact (hcmd ▸ hF).trans (decodeFileStart_reads h)
  split at h
  · next hcmd => exact (hcmd ▸ hF).trans (decodeFileData_reads h)
  split at h
  · next hcmd => exact (hcmd ▸ hF).trans (decodeFileEnd_reads h)
  split at h
  · next hcmd => exact (hcmd ▸ hF).trans (takeFrame_response_reads rfl h)
  split at h
  · next hcmd => exact (hcmd ▸ hF).trans (takeFrame_response_reads rfl h)
  split at h
  · next hcmd => exact (hcmd ▸ hF).trans (takeFrame_response_reads rfl h)
  · cases h

/-- Decoding a completed frame and running its instruction is dispatching the frame (R135, R160). -/
theorem runFrame_eq_dispatch_self (F : List Byte) (s : State) : runFrame F s = dispatch Cfg.device F s := by
  match hd : decode F with
  | .ok (i, []) =>
    have hF : F = encode i := (decodeWith_reads hd).trans (List.append_nil _)
    by_cases hi : i.isCommand = true
    · simp only [runFrame, hd, hi, if_true, exec_eq_dispatch_encode hi, ← hF]
    · simp only [runFrame, hd, hi, if_false, Bool.false_eq_true]
  | .ok (i, b :: rest) => simp only [runFrame, hd]
  | .error e => simp only [runFrame, hd]

/-- The step of this hardware is the spec's own (R130, R160). -/
theorem step_eq_takeInput_dispatch (s : State) : step s = takeInput Cfg.device (dispatch Cfg.device) s := by
  rw [step, funext₂ runFrame_eq_dispatch_self]

end Reading

section Storing
/-! Where a `Store` comes from (R82, R83, R241): of all operations only FILE_END's acceptance emits one. -/

section NoStore
variable {filename data : List Byte} {n : Nat}

theorem store_mem_respond (c : Cfg) (k : ResponseKind) (s : State) :
    .store filename data n ∈ (respond c k s).trace ↔ .store filename data n ∈ s.trace := by simp

@[simp] theorem store_mem_raise (c : Cfg) (e : ErrorCode) (info : List Nat) (s : State) :
    .store filename data n ∈ (raise c e info s).trace ↔ .store filename data n ∈ s.trace := by
  rw [raise_trace]
  cases e.response <;> simp

@[simp] theorem store_mem_warnCount (total : Nat) (s : State) :
    .store filename data n ∈ (warnCount total s).trace ↔ .store filename data n ∈ s.trace := by
  rw [warnCount_trace]
  split <;> simp

@[simp] theorem seek_trace (c : Cfg) (b : Byte) (s : State) : (seek c b s).trace = s.trace := by
  unfold seek
  split <;> rfl

@[simp] theorem store_mem_overflow (c : Cfg) (b : Byte) (s : State) :
    .store filename data n ∈ (overflow c b s).trace ↔ .store filename data n ∈ s.trace := by
  unfold overflow
  cases c.overflowPolicy <;> simp

end NoStore

/-- The frame `F` is a FILE_END with a matching checksum that takes the active session of `s` to the empty session of `t`, and
`filename`, `data` and `n` are the name, the data and the size as they stood in `s`. -/
structure StoresFile (c : Cfg) (F : List Byte) (s t : State) (filename data : List Byte) (n : Nat) : Prop where
  command : commandOf F = c.cmdFileEnd
  checksum_ok : checksumOK F = true
  active : s.active = true
  cleared : SessionEmpty t
  filename_eq : filename = s.name.readBytes 0 s.nameLen
  length_eq : n = s.declaredSize.toNat
  data_eq : data = s.buffer.readBytes 0 s.declaredSize.toNat

variable {c : Cfg} {F : List Byte} {s t : State} {filename data : List Byte} {n : Nat}

theorem startHandler_store_mem (h : startHandler c F s = .next t) (hmem : .store filename data n ∈ t.trace) :
    .store filename data n ∈ s.trace := by
  rcases startHandler_cases h with ⟨e, info, -, rfl⟩ | ⟨-, -, -, ⟨-, rfl⟩ | ⟨-, rfl⟩⟩
  · simpa using hmem
  · simpa using hmem
  · simpa using hmem

theorem dataHandler_store_mem (h : dataHandler c F s = .next t) (hmem : .store filename data n ∈ t.trace) :
    .store filename data n ∈ s.trace := by
  rcases dataHandler_cases h with ⟨e, info, -, rfl⟩ | ⟨-, -, -, -, ⟨-, rfl⟩ | ⟨-, rfl⟩⟩
  · simpa using hmem
  · simpa using hmem
  · rw [store_mem_raise] at hmem
    split at hmem <;> exact hmem

theorem endHandler_store_mem (hcmd : commandOf F = c.cmdFileEnd) (h : endHandler c F s = .next t)
    (hmem : .store filename data n ∈ t.trace) :
    .store filename data n ∈ s.trace ∨ StoresFile c F s t filename data n := by
  rcases endHandler_cases h with ⟨e, info, -, rfl⟩ | ⟨-, -, rfl⟩ | ⟨ha, hok, -, -, rfl⟩
  · exact .inl (by simpa using hmem)
  · exact .inl (by simpa using hmem)
  · rw [sessionClear_trace, store_mem_respond, emit_trace, List.mem_append, store_mem_warnCount,
      List.mem_singleton] at hmem
    refine hmem.imp_right fun heq => ?_
    obtain ⟨hname, hdata, hn⟩ := Event.store.inj heq
    exact ⟨hcmd, hok, ha, sessionClear_empty _, hname, hn, hdata⟩

theorem dispatch_store_mem (h : dispatch c F s = .next t) (hmem : .store filename data n ∈ t.trace) :
    .store filename data n ∈ s.trace ∨ StoresFile c F s t filename data n := by
  rcases dispatch_cases c F s with ⟨-, heq⟩ | ⟨-, heq⟩ | ⟨hcmd, heq⟩ | heq <;> rw [heq] at h
  · exact .inl (startHandler_store_mem h hmem)
  · exact .inl (dataHandler_store_mem h hmem)
  · exact endHandler_store_mem hcmd h hmem
  · obtain rfl := Host.Outcome.next.inj h
    exact .inl (by simpa using hmem)

/-- Taking a byte stores where the byte completes a frame that stores (R135). -/
theorem ingest_store_mem {b : Byte} (h : ingest c (dispatch c) b s = .next t) (hmem : .store filename data n ∈ t.trace) :
    .store filename data n ∈ s.trace ∨
      Completes c s b ∧ StoresFile c (partialFrame s ++ [b]) s t filename data n := by
  rcases ingest_cases h with ⟨-, rfl⟩ | ⟨-, -, rfl⟩ | ⟨ha, hroom, ⟨hlen, h⟩ | ⟨-, rfl⟩⟩
  · exact .inl (by simpa using hmem)
  · exact .inl (by simpa using hmem)
  · exact (dispatch_store_mem h hmem).imp_right fun hs => ⟨⟨ha, hroom, hlen⟩, { hs with }⟩
  · exact .inl hmem

theorem takeInput_store_mem (h : takeInput c (dispatch c) s = .next t) (hmem : .store filename data n ∈ t.trace) :
    .store filename data n ∈ s.trace ∨ ∃ b rest, s.rx = .byte b :: rest ∧ Completes c s b ∧
      StoresFile c (partialFrame s ++ [b]) s t filename data n := by
  match hrx : s.rx with
  | [] =>
    rw [takeInput_empty hrx] at h
    exact .inl (Host.Outcome.next.inj h ▸ hmem)
  | .reset :: rest =>
    rw [takeInput_reset hrx] at h
    obtain rfl := Host.Outcome.next.inj h
    exact .inl hmem
  | .byte b :: rest =>
    rw [takeInput_byte hrx] at h
    exact (ingest_store_mem h hmem).imp_right fun ⟨hdone, hs⟩ => ⟨b, rest, rfl, hdone, { hs with }⟩

end Storing

/-- Settles O32: a new `Store` is one in the step of the state with no past. -/
theorem storeOnlyAtFileEnd : Obligations.StoreOnlyAtFileEnd := by
  intro s t filename data n hstep hmem
  obtain ⟨u, hu, rfl⟩ := step_untraced hstep
  rw [precededBy_trace, List.drop_left] at hmem
  rw [step_eq_takeInput_dispatch] at hu
  rcases takeInput_store_mem hu hmem with hpast | ⟨b, rest, hrx, hdone, hs⟩
  · cases hpast
  · exact ⟨hs.active, hs.cleared, hs.filename_eq, hs.length_eq, hs.data_eq, b, rest, hrx, hdone, hs.command,
      hs.checksum_ok⟩

end Sys2Proof.Machine

/-! Family 30_encoding.md: the decoder and the encoder invert each other (R92 to R96, R102), a frame cut short is truncated, and
the length decoder knows a length from its position on (R97, R101). -/

namespace Sys2Proof.Machine

section Cutting
/-! The first bytes of a frame, whole or cut. -/

theorem byteAt_take {F : List Byte} {i k : Nat} (h : i < k) : byteAt (F.take k) i = byteAt F i := by
  simp only [byteAt, List.getD_eq_getElem?_getD, List.getElem?_take_of_lt h]

theorem byteAt_encodeWith_zero (c : Cfg) (i : Instr) : byteAt (encodeWith c i) 0 = c.header := by
  cases i <;> rfl

/-- The command byte of an encoded frame is one of the command map (R96). -/
theorem commandOf_encodeWith_mem (c : Cfg) (i : Instr) : commandOf (encodeWith c i) ∈
    [c.cmdFileStart, c.cmdFileData, c.cmdFileEnd, c.cmdAck, c.cmdNack, c.cmdReady] := by
  cases i <;> simp [commandOf, encodeWith, encodeBody]

end Cutting

section Fields
/-! The decoder's fields are the operands the handlers read, wherever the frame is followed by more bytes (R91 to R94). -/

variable {F : List Byte}

theorem slice_append_left {i n : Nat} (h : i + n ≤ F.length) (G : List Byte) : slice (F ++ G) i n = slice F i n := by
  rw [slice, slice, List.drop_append_of_le_length (by omega), List.take_append_of_le_length (by simp; omega)]

theorem be16_append_left {i : Nat} (h : i + 2 ≤ F.length) (G : List Byte) : be16 (F ++ G) i = be16 F i := by
  rw [be16, be16, byteAt_append_left (by omega), byteAt_append_left (by omega)]

theorem be32_append_left {i : Nat} (h : i + 4 ≤ F.length) (G : List Byte) : be32 (F ++ G) i = be32 F i := by
  rw [be32, be32, byteAt_append_left (by omega), byteAt_append_left (by omega), byteAt_append_left (by omega),
    byteAt_append_left (by omega)]

/-- A whole frame is taken off the bytes it heads. -/
theorem takeFrame_append {L : Nat} (h : F.length = L) (i : Instr) (rest : List Byte) :
    takeFrame (F ++ rest) L i = .ok (i, rest) := by
  rw [takeFrame, if_neg (by simp; omega), ← h, List.drop_left]

/-- A FILE_START of the length its length byte gives (R92). -/
theorem decodeFileStart_append (h : F.length = filenameLenOf F + 8) (rest : List Byte) :
    decodeFileStart (F ++ rest) =
      .ok (.fileStart (filenameOf F) (BitVec.ofNat 32 (fileSizeOf F)) (receivedChecksum F), rest) := by
  have hlen : byteAt (F ++ rest) 2 = byteAt F 2 := byteAt_append_left (by omega)
  unfold filenameLenOf at h
  rw [decodeFileStart, if_neg (by simp; omega), hlen]
  dsimp only
  rw [takeFrame_append h, slice_append_left (by omega), be32_append_left (by omega), byteAt_append_left (by omega),
    receivedChecksum, show F.length - 1 = 7 + (byteAt F 2).toNat by omega]
  rfl

/-- A FILE_DATA of the length its length byte gives (R93). -/
theorem decodeFileData_append (h : F.length = dataLenOf F + 6) (rest : List Byte) :
    decodeFileData (F ++ rest) =
      .ok (.fileData (BitVec.ofNat 16 (seqNumOf F)) (dataOf F) (receivedChecksum F), rest) := by
  have hlen : byteAt (F ++ rest) 4 = byteAt F 4 := byteAt_append_left (by omega)
  unfold dataLenOf at h
  rw [decodeFileData, if_neg (by simp; omega), hlen]
  dsimp only
  rw [takeFrame_append h, slice_append_left (by omega), be16_append_left (by omega), byteAt_append_left (by omega),
    receivedChecksum, show F.length - 1 = 5 + (byteAt F 4).toNat by omega]
  rfl

/-- A FILE_END (R94). -/
theorem decodeFileEnd_append (h : F.length = 5) (rest : List Byte) :
    decodeFileEnd (F ++ rest) = .ok (.fileEnd (BitVec.ofNat 16 (totalPacketsOf F)) (receivedChecksum F), rest) := by
  rw [decodeFileEnd, takeFrame_append h, be16_append_left (by omega), byteAt_append_left (by omega), receivedChecksum, h]
  rfl

end Fields

section Inverse
/-! Decoding inverts encoding (R92 to R96, R102). -/

variable {c : Cfg} {F rest : List Byte} {i : Instr}

/-- The round trip asks nothing of a response: the decoder takes whatever checksum byte it carries. -/
theorem decodeWith_encodeWith (hc : c.valid = true) (hi : i.isCommand = true → i.wellFormed c = true)
    (rest : List Byte) : decodeWith c (encodeWith c i ++ rest) = .ok (i, rest) := by
  obtain ⟨hsd, hse, hsa, hsn, hsr, hde, hda, hdn, hdr, hea, hen, her, han, har, hnr, -⟩ := (valid_iff c).mp hc
  cases i with
  | fileStart filename size cs =>
    have hlen : filename.length ≤ 255 := of_decide_eq_true (hi rfl)
    obtain ⟨-, hn, hname, hsize⟩ := fileStart_operands c filename size cs hlen
    calc decodeWith c (encodeWith c (.fileStart filename size cs) ++ rest)
      _ = decodeFileStart (encodeWith c (.fileStart filename size cs) ++ rest) := by
        simp [decodeWith, encodeWith, encodeBody]
      _ = .ok (.fileStart filename size cs, rest) := by
        rw [decodeFileStart_append (by rw [hn, encodeWith_length]; rfl), hname, hsize, receivedChecksum_encode]
        simp [checksumField]
  | fileData seq data cs =>
    have hlen : data.length ≤ 255 := of_decide_eq_true (hi rfl)
    obtain ⟨-, hseq, hn, hdata⟩ := fileData_operands c seq data cs hlen
    calc decodeWith c (encodeWith c (.fileData seq data cs) ++ rest)
      _ = decodeFileData (encodeWith c (.fileData seq data cs) ++ rest) := by
        simp [decodeWith, encodeWith, encodeBody, hsd.symm]
      _ = .ok (.fileData seq data cs, rest) := by
        rw [decodeFileData_append (by rw [hn, encodeWith_length]; rfl), hseq, hdata, receivedChecksum_encode]
        simp [checksumField]
  | fileEnd total cs =>
    obtain ⟨-, htotal⟩ := fileEnd_operands c total cs
    calc decodeWith c (encodeWith c (.fileEnd total cs) ++ rest)
      _ = decodeFileEnd (encodeWith c (.fileEnd total cs) ++ rest) := by
        simp [decodeWith, encodeWith, encodeBody, hse.symm, hde.symm]
      _ = .ok (.fileEnd total cs, rest) := by
        rw [decodeFileEnd_append (encodeWith_length c _), htotal, receivedChecksum_encode]
        simp [checksumField]
  | ack cs =>
    calc decodeWith c (encodeWith c (.ack cs) ++ rest)
      _ = takeFrame (encodeWith c (.ack cs) ++ rest) 3 (.ack cs) := by
        simp [decodeWith, encodeWith, encodeBody, checksumField, hsa.symm, hda.symm, hea.symm]
      _ = .ok (.ack cs, rest) := takeFrame_append rfl _ _
  | nack cs =>
    calc decodeWith c (encodeWith c (.nack cs) ++ rest)
      _ = takeFrame (encodeWith c (.nack cs) ++ rest) 3 (.nack cs) := by
        simp [decodeWith, encodeWith, encodeBody, checksumField, hsn.symm, hdn.symm, hen.symm, han.symm]
      _ = .ok (.nack cs, rest) := takeFrame_append rfl _ _
  | ready cs =>
    calc decodeWith c (encodeWith c (.ready cs) ++ rest)
      _ = takeFrame (encodeWith c (.ready cs) ++ rest) 3 (.ready cs) := by
        simp [decodeWith, encodeWith, encodeBody, checksumField, hsr.symm, hdr.symm, her.symm, har.symm, hnr.symm]
      _ = .ok (.ready cs, rest) := takeFrame_append rfl _ _

/-- A field as long as a byte says has at most 255 bytes. -/
theorem slice_length_le (F : List Byte) (k : Nat) (b : Byte) : (slice F k b.toNat).length ≤ 255 :=
  (List.length_take_le _ _).trans (Nat.le_of_lt_succ b.isLt)

theorem decodeFileStart_wellFormed (h : decodeFileStart F = .ok (i, rest)) : i.wellFormed c = true := by
  unfold decodeFileStart at h
  split at h
  · cases h
  · obtain ⟨-, rfl, -⟩ := takeFrame_ok h
    exact decide_eq_true (slice_length_le F 3 _)

theorem decodeFileData_wellFormed (h : decodeFileData F = .ok (i, rest)) : i.wellFormed c = true := by
  unfold decodeFileData at h
  split at h
  · cases h
  · obtain ⟨-, rfl, -⟩ := takeFrame_ok h
    exact decide_eq_true (slice_length_le F 5 _)

theorem decodeFileEnd_wellFormed (h : decodeFileEnd F = .ok (i, rest)) : i.wellFormed c = true := by
  obtain ⟨-, rfl, -⟩ := takeFrame_ok h
  rfl

/-- A command's length byte bounds what the decoder reads of it (R102); a response is no command. -/
theorem decodeWith_wellFormed (h : decodeWith c F = .ok (i, rest)) (hi : i.isCommand = true) :
    i.wellFormed c = true := by
  have hresponse {j : Instr} (hj : j.isCommand = false) (h : takeFrame F 3 j = .ok (i, rest)) : False := by
    obtain ⟨-, rfl, -⟩ := takeFrame_ok h
    exact Bool.false_ne_true (hj.symm.trans hi)
  unfold decodeWith at h
  iterate 3 (split at h; · cases h)
  split at h
  · exact decodeFileStart_wellFormed h
  split at h
  · exact decodeFileData_wellFormed h
  split at h
  · exact decodeFileEnd_wellFormed h
  iterate 3 (split at h; · exact (hresponse rfl h).elim)
  cases h

end Inverse

/-- Settles O1: the decoder asks less of the frame than well-formedness. -/
theorem decodeEncodeRoundTrip : Obligations.DecodeEncodeRoundTrip :=
  fun _ _ rest hc hi => decodeWith_encodeWith hc (fun _ => hi) rest

/-- Settles O2: each field read is written back as it stood, and a length byte is at most 255. -/
theorem encodeDecodeRoundTrip : Obligations.EncodeDecodeRoundTrip :=
  fun _ _ _ _ h => ⟨decodeWith_reads h, decodeWith_wellFormed h⟩

section Truncation
/-! A frame cut short: the decoder can only ask for more bytes, since no frame is the beginning of another. -/

variable {c : Cfg} {F : List Byte} {e : DecodeError}

theorem takeFrame_error {L : Nat} {i : Instr} (h : takeFrame F L i = .error e) :
    ∃ need, e = .truncated F.length need := by
  unfold takeFrame at h
  split at h
  · exact ⟨L, (Except.error.inj h).symm⟩
  · cases h

theorem decodeFileStart_error (h : decodeFileStart F = .error e) : ∃ need, e = .truncated F.length need := by
  unfold decodeFileStart at h
  split at h
  · exact ⟨3, (Except.error.inj h).symm⟩
  · exact takeFrame_error h

theorem decodeFileData_error (h : decodeFileData F = .error e) : ∃ need, e = .truncated F.length need := by
  unfold decodeFileData at h
  split at h
  · exact ⟨5, (Except.error.inj h).symm⟩
  · exact takeFrame_error h

/-- After a header and a command byte of the map the decoder refuses only for want of bytes (R96, log 16). -/
theorem decodeWith_error (hlen : 2 ≤ F.length) (h0 : byteAt F 0 = c.header)
    (hcmd : commandOf F ∈ [c.cmdFileStart, c.cmdFileData, c.cmdFileEnd, c.cmdAck, c.cmdNack, c.cmdReady])
    (h : decodeWith c F = .error e) : ∃ need, e = .truncated F.length need := by
  rw [decodeWith, if_neg (by omega), if_neg (not_not.mpr h0), if_neg (by omega)] at h
  split at h
  · exact decodeFileStart_error h
  split at h
  · exact decodeFileData_error h
  iterate 4 (split at h; · exact takeFrame_error h)
  next hs hd he ha hn hr =>
  exact absurd hcmd (by simpa [commandOf] using ⟨hs, hd, he, ha, hn, hr⟩)

/-- No frame is the beginning of another: a beginning of a frame from which the decoder reads a frame is all of it. -/
theorem eq_nil_of_decodeWith_beginning {i j : Instr} {rest G : List Byte} (hc : c.valid = true)
    (hi : i.wellFormed c = true) (hF : encodeWith c i = F ++ G) (h : decodeWith c F = .ok (j, rest)) : G = [] := by
  have hj : encodeWith c i = encodeWith c j ++ (rest ++ G) := by
    rw [hF, decodeWith_reads h, List.append_assoc]
  have hread : decodeWith c (encodeWith c i) = .ok (j, rest ++ G) :=
    hj ▸ decodeWith_encodeWith hc (decodeWith_wellFormed h) (rest ++ G)
  have hwhole : decodeWith c (encodeWith c i) = .ok (i, []) := by
    simpa using decodeWith_encodeWith hc (fun _ => hi) []
  obtain ⟨-, hrest⟩ := Prod.mk.inj (Except.ok.inj (hread.symm.trans hwhole))
  exact (List.append_eq_nil_iff.mp hrest).2

end Truncation

/-- Settles O3: after the command byte the decoder reads a frame or wants more bytes, and a cut frame holds no frame. -/
theorem cutFrameIsTruncated : Obligations.CutFrameIsTruncated := by
  intro c i k hc hi hk hcut
  have hlen : ((encodeWith c i).take k).length = k := by simp; omega
  match hd : decodeWith c ((encodeWith c i).take k) with
  | .ok (j, rest) =>
    have hnil := eq_nil_of_decodeWith_beginning hc hi (List.take_append_drop k _).symm hd
    have : layoutLength i ≤ k := by simpa using hnil
    omega
  | .error e =>
    obtain ⟨need, rfl⟩ := decodeWith_error (by omega) ((byteAt_take (by omega)).trans (byteAt_encodeWith_zero c i))
      (by rw [commandOf, byteAt_take (by omega)]; exact commandOf_encodeWith_mem c i) hd
    exact ⟨need, by rw [hlen]⟩

section KnownLength
/-! The length decoder on the first `k` bytes of a frame (R97). -/

variable {c : Cfg} {F : List Byte} {k : Nat}

/-- The command byte is known after 2 bytes, the length byte of a FILE_START after 3 and that of a FILE_DATA after 5. -/
theorem expectedLen_take (hk : k ≤ F.length) : expectedLen c (F.take k) =
    if k < 2 then none
    else if commandOf F = c.cmdFileStart then if k < 3 then none else some (filenameLenOf F + 8)
    else if commandOf F = c.cmdFileData then if k < 5 then none else some (dataLenOf F + 6)
    else if commandOf F = c.cmdFileEnd then some 5
    else none := by
  rw [expectedLen, List.length_take_of_le hk]
  by_cases h2 : k < 2
  · rw [if_pos h2, if_pos h2]
  rw [if_neg h2, if_neg h2, byteAt_take (show 1 < k by omega), commandOf]
  congr 1
  · by_cases h3 : k < 3
    · rw [if_pos h3, if_neg (by omega)]
    · rw [if_neg h3, if_pos (by omega), byteAt_take (by omega), filenameLenOf]
  congr 1
  by_cases h5 : k < 5
  · rw [if_pos h5, if_neg (by omega)]
  · rw [if_neg h5, if_pos (by omega), byteAt_take (by omega), dataLenOf]

/-- The command byte of a response is none the length decoder knows (R99). -/
theorem commandOf_response (hc : c.valid = true) {i : Instr} (hi : i.isCommand = false) :
    commandOf (encodeWith c i) ≠ c.cmdFileStart ∧ commandOf (encodeWith c i) ≠ c.cmdFileData ∧
      commandOf (encodeWith c i) ≠ c.cmdFileEnd := by
  obtain ⟨-, -, hsa, hsn, hsr, -, hda, hdn, hdr, hea, hen, her, -⟩ := (valid_iff c).mp hc
  cases i with
  | fileStart filename size cs => cases hi
  | fileData seq data cs => cases hi
  | fileEnd total cs => cases hi
  | ack cs => exact ⟨hsa.symm, hda.symm, hea.symm⟩
  | nack cs => exact ⟨hsn.symm, hdn.symm, hen.symm⟩
  | ready cs => exact ⟨hsr.symm, hdr.symm, her.symm⟩

/-- Nothing is known before the second byte, so a later threshold covers that case too. -/
theorem ite_lt_two_ite_lt {m : Nat} (hm : 2 ≤ m) (n : Option Nat) :
    (if k < 2 then none else if k < m then none else n) = if k < m then none else n := by
  by_cases h2 : k < 2
  · rw [if_pos h2, if_pos (by omega)]
  · rw [if_neg h2]

end KnownLength

/-- Settles O6: what the length decoder reads of a cut frame is what the whole frame has there. -/
theorem lengthKnownFromItsPosition : Obligations.LengthKnownFromItsPosition := by
  intro c hc
  obtain ⟨hsd, hse, -, -, -, hde, -⟩ := (valid_iff c).mp hc
  refine ⟨fun filename size cs k hlen hk => ?_, fun seq data cs k hlen hk => ?_, fun total cs k hk => ?_,
    fun i k hi => ?_⟩
  · obtain ⟨hcmd, hn, -, -⟩ := fileStart_operands c filename size cs hlen
    rw [expectedLen_take ((encodeWith_length c _).symm ▸ hk), hcmd, if_pos rfl, hn, ite_lt_two_ite_lt (by omega)]
  · obtain ⟨hcmd, -, hn, -⟩ := fileData_operands c seq data cs hlen
    rw [expectedLen_take ((encodeWith_length c _).symm ▸ hk), hcmd, if_neg hsd.symm, if_pos rfl, hn,
      ite_lt_two_ite_lt (by omega)]
  · obtain ⟨hcmd, -⟩ := fileEnd_operands c total cs
    rw [expectedLen_take ((encodeWith_length c _).symm ▸ hk), hcmd, if_neg hse.symm, if_neg hde.symm, if_pos rfl]
  · obtain ⟨hs, hd, he⟩ := commandOf_response hc hi
    rw [List.take_eq_take_min, expectedLen_take (Nat.min_le_right _ _), if_neg hs, if_neg hd, if_neg he, ite_self]

/-- Settles O4: the checksums are computed and the layouts written out (R102, R122). -/
theorem workedEncodings : Obligations.WorkedEncodings := by
  unfold Obligations.WorkedEncodings
  decide

/-- Settles O5: the six words are the encodings of the frames they stand for. -/
theorem writtenWordsDecode : Obligations.WrittenWordsDecode := by
  have reads (i : Instr) (hi : i.wellFormed Cfg.device = true) : decode (encode i) = .ok (i, []) := by
    simpa [decode, encode] using decodeWith_encodeWith (c := Cfg.device) rfl (fun _ => hi) []
  exact ⟨reads (.fileStart [0x61, 0x2E, 0x74, 0x78, 0x74] 20000 0x73) rfl, reads (.fileData 41 [] 0x3B) rfl,
    reads (.fileEnd 1 0x14) rfl, reads (.ack 0x14) rfl, reads (.nack 0x15) rfl, reads (.ready 0x16) rfl, rfl, rfl⟩

end Sys2Proof.Machine

/-! Family 40_checksum.md: the checksum is the sum of the bytes mod 256 (R120), a frame closed by its own checksum passes the
check (R123), and the check sees every change of one byte but no change that keeps the sum (R124). -/

namespace Sys2Proof.Machine

section Sum
/-! `Checksum` (R120), byte by byte and as the sum over unbounded integers. -/

@[simp] theorem checksum_nil : checksum [] = 0 := rfl

/-- The accumulation from the left adds its first byte to the checksum of the others. -/
@[simp] theorem checksum_cons (b : Byte) (x : List Byte) : checksum (b :: x) = b + checksum x := by
  rw [checksum, List.foldl_cons, add_comm, List.foldl_assoc, checksum]

/-- The carries dropped at each addition are those dropped at the end alike (R120). -/
theorem toNat_checksum (x : List Byte) : (checksum x).toNat = (x.map BitVec.toNat).sum % 256 := by
  induction x with
  | nil => rfl
  | cons b x ih => rw [checksum_cons, BitVec.toNat_add, ih, List.map_cons, List.sum_cons, Nat.add_mod_mod]

/-- Two lists have the same checksum exactly where their sums agree mod 256. -/
theorem checksum_eq_iff (x y : List Byte) :
    checksum x = checksum y ↔ (x.map BitVec.toNat).sum % 256 = (y.map BitVec.toNat).sum % 256 := by
  rw [← BitVec.toNat_inj, toNat_checksum, toNat_checksum]

theorem checksum_perm {x y : List Byte} (h : x.Perm y) : checksum x = checksum y := by
  rw [checksum_eq_iff, (h.map _).sum_eq]

/-- Replacing one byte keeps the checksum only where it keeps the byte (R124): addition mod 256 cancels. -/
theorem checksum_set_eq_iff {x : List Byte} {k : Nat} (hk : k < x.length) (b : Byte) :
    checksum (x.set k b) = checksum x ↔ b = byteAt x k := by
  induction x generalizing k with
  | nil => cases hk
  | cons a x ih =>
    cases k with
    | zero => simp
    | succ k => simpa using ih (Nat.lt_of_succ_lt_succ hk)

end Sum

section Check
/-! `ChecksumOK` (R121) on a frame given as the bytes before its checksum byte and that byte. -/

/-- The check compares the last byte with the checksum of the bytes before it (R121). -/
@[simp] theorem checksumOK_concat (p : List Byte) (cs : Byte) : checksumOK (p ++ [cs]) = (checksum p == cs) := by
  have hreceived : receivedChecksum (p ++ [cs]) = cs := by
    rw [receivedChecksum, byteAt_append_right (by simp)]
    simp
  rw [checksumOK, computedChecksum, List.dropLast_concat, hreceived]

/-- A frame that passes the check fails it after a change of its byte `k` (R124). -/
theorem checksumOK_set {F : List Byte} {k : Nat} {b : Byte} (hk : k < F.length) (hb : b ≠ byteAt F k)
    (hok : checksumOK F = true) : checksumOK (F.set k b) = false := by
  obtain rfl | ⟨p, cs, rfl⟩ := F.eq_nil_or_concat'
  · cases hk
  have hcs : checksum p = cs := by simpa using hok
  rw [List.length_append, List.length_singleton] at hk
  by_cases hlt : k < p.length
  · -- A byte of the span changed: the sum changes, the checksum byte does not.
    rw [byteAt_append_left hlt] at hb
    rw [List.set_append_left _ _ hlt, checksumOK_concat, beq_eq_false_iff_ne, ← hcs]
    exact mt (checksum_set_eq_iff hlt b).mp hb
  · -- The checksum byte changed: the sum does not.
    obtain rfl : k = p.length := by omega
    have hbcs : b ≠ cs := by simpa [byteAt_append_right] using hb
    rw [List.set_append_right _ _ (Nat.le_refl _), Nat.sub_self, List.set_cons_zero, checksumOK_concat,
      beq_eq_false_iff_ne, hcs]
    exact hbcs.symm

end Check

/-- Settles O8: one induction over the list gives the sum, and the sum does not see the order. -/
theorem checksumIsSumMod256 : Obligations.ChecksumIsSumMod256 :=
  ⟨toNat_checksum, fun _ _ => checksum_perm, checksum_nil⟩

/-- Settles O10: the sum cancels, so one changed byte shows on one side of the comparison; the comparison sees no more of the
other bytes than their sum. -/
theorem checksumDetectsOneChangedByte : Obligations.ChecksumDetectsOneChangedByte := by
  refine ⟨fun _ _ _ hk hb hok => checksumOK_set hk hb hok, fun p q cs hsum => ?_⟩
  rw [checksumOK_concat, checksumOK_concat, (checksum_eq_iff p q).mpr hsum]

/-- Settles O9: the byte appended is the one the check compares with. -/
theorem checksumRoundTrip : Obligations.ChecksumRoundTrip := by
  intro p _
  rw [checksumOK_concat, beq_self_eq_true]

end Sys2Proof.Machine

/-! Family 41_frame_assembler.md: what one byte does to the assembler (R130 to R135), that completion is exact (R136), how a
frame, an unfinished frame and noise arrive (R137, R138), and what one step emits (R139). -/

namespace Sys2Proof.Machine

open MemoryLaws

section OneByte
/-! The taking of one byte, one rule per case of R130, for any runner of completed frames. -/

variable {c : Cfg} {run : Runner} {s : State} {b : Byte} {rest : List Input}

theorem seek_header (c : Cfg) (s : State) : seek c c.header s = startFrame c s := if_pos rfl

theorem seek_noise (hb : b ≠ c.header) (s : State) : seek c b s = s := if_neg hb

/-- A byte looked at outside a frame (R131, R132). -/
theorem takeInput_seeking (hrx : s.rx = .byte b :: rest) (ha : s.asmState = .seekingHeader) :
    takeInput c run s = .next (seek c b { s with rx := rest }) := by
  simp only [takeInput_byte hrx, ingest, ha]

/-- A byte that finds `Scratch` full (R134). -/
theorem takeInput_full (hrx : s.rx = .byte b :: rest) (hfull : Overflows c s) :
    takeInput c run s = .next (overflow c b { s with rx := rest }) := by
  obtain ⟨ha, hlen⟩ := hfull
  simp only [takeInput_byte hrx, ingest, ha, hlen, if_true]

/-- A byte that does not complete its frame is stored (R133). -/
theorem takeInput_unfinished (hrx : s.rx = .byte b :: rest) (ha : s.asmState = .accumulating)
    (hroom : s.frameLen < c.maxFrame) (hlen : expectedLen c (partialFrame s ++ [b]) ≠ some (s.frameLen + 1)) :
    takeInput c run s = .next (stored b { s with rx := rest }) :=
  calc takeInput c run s
    _ = ingest c run b { s with rx := rest } := takeInput_byte hrx
    _ = .next (stored b { s with rx := rest }) := (ingest_store (s := { s with rx := rest }) ha hroom).trans (if_neg hlen)

/-- A byte that completes its frame runs it, with the assembler released (R135). -/
theorem takeInput_completed (hrx : s.rx = .byte b :: rest) (hdone : Completes c s b) :
    takeInput c run s = run (partialFrame s ++ [b]) (releaseFrame (stored b { s with rx := rest })) := by
  obtain ⟨ha, hroom, hlen⟩ := hdone
  calc takeInput c run s
    _ = ingest c run b { s with rx := rest } := takeInput_byte hrx
    _ = run (partialFrame s ++ [b]) (releaseFrame (stored b { s with rx := rest })) :=
      (ingest_store (s := { s with rx := rest }) ha hroom).trans (if_pos hlen)

/-- What an overflow leaves, under either policy (R134). -/
theorem overflow_eq (c : Cfg) (b : Byte) (s : State) : overflow c b s =
    if c.overflowPolicy = .reexamine ∧ b = c.header then
      startFrame c ((releaseFrame s).emit (.diag .frameOverflow [b.toNat]))
    else (releaseFrame s).emit (.diag .frameOverflow [b.toNat]) := by
  unfold overflow
  cases c.overflowPolicy with
  | drop => exact (if_neg nofun).symm
  | reexamine => simp only [true_and]; rfl

@[simp] theorem overflow_trace (c : Cfg) (b : Byte) (s : State) :
    (overflow c b s).trace = s.trace ++ [.diag .frameOverflow [b.toNat]] := by
  rw [overflow_eq]
  split <;> rfl

end OneByte

/-- Settles O14: a non-header byte is not kept. -/
theorem noiseByteIsIgnored : Obligations.NoiseByteIsIgnored := by
  intro c s b rest hc ha hrx hb
  rw [stepWith_valid hc, takeInput_seeking hrx ha, seek_noise hb]

/-- Settles O15: the header is written over position 0 alone. -/
theorem headerByteStartsFrame : Obligations.HeaderByteStartsFrame := by
  intro c s rest hc ha hrx
  refine ⟨startFrame c { s with rx := rest }, ?_, rfl, ?_, fun a hne => ?_⟩
  · rw [stepWith_valid hc, takeInput_seeking hrx ha, seek_header]
  · rw [startFrame_scratch, read_write, if_pos rfl]
  · rw [startFrame_scratch, read_write, if_neg hne]

/-- Settles O16: the byte is written over position `frame_len` alone, and so ends the partial frame. -/
theorem byteIsStoredWhileAccumulating : Obligations.ByteIsStoredWhileAccumulating := by
  intro c s b rest hc ha hroom hrx hlen
  refine ⟨stored b { s with rx := rest }, ?_, rfl, partialFrame_stored _ b, fun a hne => ?_⟩
  · rw [stepWith_valid hc, takeInput_unfinished hrx ha hroom hlen]
  · rw [stored, read_write, if_neg hne]

/-- Settles O18: the byte is stored and the assembler released before the frame is dispatched. -/
theorem completedFrameIsDispatched : Obligations.CompletedFrameIsDispatched :=
  fun _ s _ _ hc hrx hdone => (stepWith_valid hc s).trans (takeInput_completed hrx hdone)

/-- Settles O19: a frame that decodes to a command is the command's encoding, so that `exec` and the dispatcher agree on it. -/
theorem stepIsTheSpecStep : Obligations.StepIsTheSpecStep :=
  fun s => (step_eq_takeInput_dispatch s).trans (stepWith_valid rfl s).symm

section Completion
/-! When a frame is complete (R97, R136). -/

variable {c : Cfg} {F : List Byte} {i : Instr}

/-- The three ways in which a length is known (R97). -/
theorem expectedLen_cases {E : Nat} (h : expectedLen c F = some E) :
    2 ≤ F.length ∧
    ((commandOf F = c.cmdFileStart ∧ 3 ≤ F.length ∧ E = filenameLenOf F + 8) ∨
     (commandOf F ≠ c.cmdFileStart ∧ commandOf F = c.cmdFileData ∧ 5 ≤ F.length ∧ E = dataLenOf F + 6) ∨
     (commandOf F ≠ c.cmdFileStart ∧ commandOf F ≠ c.cmdFileData ∧ commandOf F = c.cmdFileEnd ∧ E = 5)) := by
  unfold expectedLen at h
  split at h
  · cases h
  refine ⟨by omega, ?_⟩
  split at h
  · next hs =>
    split at h
    · next hlen => exact .inl ⟨hs, hlen, (Option.some.inj h).symm⟩
    · cases h
  next hs =>
  split at h
  · next hd =>
    split at h
    · next hlen => exact .inr (.inl ⟨hs, hd, hlen, (Option.some.inj h).symm⟩)
    · cases h
  next hd =>
  split at h
  · next he => exact .inr (.inr ⟨hs, hd, he, (Option.some.inj h).symm⟩)
  · cases h

/-- A length known from the first bytes of a frame is its length. -/
theorem expectedLen_of_take {k E : Nat} (hk : k ≤ F.length) (h : expectedLen c (F.take k) = some E) :
    expectedLen c F = some E := by
  have hF := expectedLen_take (c := c) (Nat.le_refl F.length)
  rw [List.take_length] at hF
  rw [expectedLen_take hk] at h
  split at h
  · cases h
  rw [hF, if_neg (by omega)]
  split at h
  · next hs =>
    split at h
    · cases h
    · rw [if_pos hs, if_neg (by omega), h]
  next hs =>
  rw [if_neg hs]
  split at h
  · next hd =>
    split at h
    · cases h
    · rw [if_pos hd, if_neg (by omega), h]
  · next hd => rw [if_neg hd, h]

/-- The beginnings of bytes that are short of their expected length are not complete (R136). -/
theorem take_unfinished {n k : Nat} (hF : ∀ E, expectedLen c F = some E → n < E) (hk : k ≤ n) (hn : n ≤ F.length) :
    expectedLen c (F.take k) ≠ some k :=
  fun h => Nat.not_lt.mpr hk (hF k (expectedLen_of_take (hk.trans hn) h))

/-- A frame of its expected length is one command to the decoder (R92 to R94, R136). -/
theorem decodeWith_of_complete (h0 : byteAt F 0 = c.header) (h : expectedLen c F = some F.length) :
    ∃ i, decodeWith c F = .ok (i, []) ∧ i.isCommand = true := by
  obtain ⟨h2, hcase⟩ := expectedLen_cases h
  rw [decodeWith, if_neg (by omega), if_neg (not_not.mpr h0), if_neg (by omega), ← commandOf]
  rcases hcase with ⟨hs, -, hlen⟩ | ⟨hs, hd, -, hlen⟩ | ⟨hs, hd, he, hlen⟩
  · rw [if_pos hs]
    exact ⟨_, by simpa using decodeFileStart_append hlen [], rfl⟩
  · rw [if_neg hs, if_pos hd]
    exact ⟨_, by simpa using decodeFileData_append hlen [], rfl⟩
  · rw [if_neg hs, if_neg hd, if_pos he]
    exact ⟨_, by simpa using decodeFileEnd_append hlen [], rfl⟩

/-- The expected length of a whole command frame is the length of its layout (R97). -/
theorem expectedLen_encodeWith (hc : c.valid = true) (hi : i.isCommand = true) (hwf : i.wellFormed c = true) :
    expectedLen c (encodeWith c i) = some (layoutLength i) := by
  obtain ⟨hstart, hdata, hend, -⟩ := lengthKnownFromItsPosition c hc
  rw [← List.take_length (l := encodeWith c i), encodeWith_length]
  cases i with
  | fileStart filename size cs =>
    exact (hstart filename size cs _ (of_decide_eq_true hwf) le_rfl).trans (if_neg (by omega))
  | fileData seq data cs => exact (hdata seq data cs _ (of_decide_eq_true hwf) le_rfl).trans (if_neg (by omega))
  | fileEnd total cs => exact (hend total cs _ le_rfl).trans (if_neg (by omega))
  | ack cs => cases hi
  | nack cs => cases hi
  | ready cs => cases hi

theorem encodeBody_ne_nil (c : Cfg) (i : Instr) : encodeBody c i ≠ [] := by
  cases i <;> exact nofun

theorem byteAt_encodeBody_zero (c : Cfg) (i : Instr) : byteAt (encodeBody c i) 0 = c.header := by
  cases i <;> rfl

/-- A completed frame that is the encoding of a command runs the command (R130, R160). -/
theorem runFrame_encode (hi : i.isCommand = true) (s : State) : runFrame (encode i) s = exec i s := by
  rw [runFrame_eq_dispatch_self, exec_eq_dispatch_encode hi]

end Completion

/-- Settles O7: the first five bytes fix the length, and the decoder reads the fields the length decoder counts. -/
theorem completionIsExact : Obligations.CompletionIsExact := by
  refine fun c => ⟨fun P b E hP h => length_le_expectedLen_append hP h, fun F h0 h => ?_⟩
  obtain ⟨i, hread, hi⟩ := decodeWith_of_complete h0 h
  have hF : F = encodeWith c i := by simpa using decodeWith_reads hread
  exact ⟨i, hread, hi, by rw [hF, encodeWith_length]⟩

/-- Settles O20: bytes that decode to a command are its encoding, and so of its expected length. -/
theorem stepRunsDecodedInstruction : Obligations.StepRunsDecodedInstruction := by
  intro s b rest i ha hroom hrx hread hi
  have hF : partialFrame s ++ [b] = encode i := by simpa [encode] using decodeWith_reads hread
  have hlen : layoutLength i = s.frameLen + 1 := by
    rw [← encodeWith_length Cfg.device i, ← encode, ← hF, List.length_append, partialFrame_length, List.length_singleton]
  have hdone : Completes Cfg.device s b :=
    ⟨ha, hroom, by rw [hF, ← hlen]; exact expectedLen_encodeWith rfl hi (decodeWith_wellFormed hread hi)⟩
  rw [step, takeInput_completed hrx hdone, hF, runFrame_encode hi]
  rfl

section Arrival
/-! Bytes that arrive one after the other from SEEKING_HEADER on (R131 to R133). -/

/-- The state in which the bytes `F` of a frame have arrived and are stored. -/
def arrived (F : List Byte) (s : State) : State :=
  { s with asmState := .accumulating, frameLen := F.length, scratch := s.scratch.writeBytes 0 F }

theorem partialFrame_arrived (F : List Byte) (s : State) : partialFrame (arrived F s) = F :=
  readBytes_writeBytes s.scratch 0 F

theorem startFrame_eq_arrived (c : Cfg) (s : State) : startFrame c s = arrived [c.header] s := rfl

theorem stored_arrived (F : List Byte) (b : Byte) (s : State) : stored b (arrived F s) = arrived (F ++ [b]) s := by
  simp only [stored, arrived, writeBytes_append, Nat.zero_add, List.length_append, List.length_singleton,
    Memory.writeBytes]

variable {s : State} {rest : List Input}

theorem step_header (ha : s.asmState = .seekingHeader) (rest : List Input) :
    step { s with rx := .byte Cfg.device.header :: rest } =
      .next (arrived [Cfg.device.header] { s with rx := rest }) :=
  (takeInput_seeking (s := { s with rx := .byte Cfg.device.header :: rest }) rfl ha).trans
    (congrArg _ ((seek_header _ _).trans (startFrame_eq_arrived _ _)))

theorem step_noise (ha : s.asmState = .seekingHeader) {b : Byte} (hb : b ≠ Cfg.device.header) (rest : List Input) :
    step { s with rx := .byte b :: rest } = .next { s with rx := rest } :=
  (takeInput_seeking (s := { s with rx := .byte b :: rest }) rfl ha).trans (congrArg _ (seek_noise hb _))

theorem step_arrived {P : List Byte} {b : Byte} (hroom : P.length < 256)
    (hlen : expectedLen Cfg.device (P ++ [b]) ≠ some (P.length + 1)) (s : State) (rest : List Input) :
    step (arrived P { s with rx := .byte b :: rest }) = .next (arrived (P ++ [b]) { s with rx := rest }) := by
  rw [← stored_arrived]
  exact takeInput_unfinished (s := arrived P { s with rx := .byte b :: rest }) rfl rfl hroom
    (by rwa [partialFrame_arrived])

/-- A run over the bytes of `P` and then over one byte more is a run of one step from where the first ends. -/
theorem runSteps_append_byte {P : List Byte} {b : Byte} {t : State}
    (h : runSteps P.length { s with rx := inputs P ++ .byte b :: rest } = .next t) :
    runSteps (P.length + 1) { s with rx := inputs (P ++ [b]) ++ rest } = step t := by
  have hrx : inputs (P ++ [b]) ++ rest = inputs P ++ .byte b :: rest := by simp [inputs]
  rw [hrx, runSteps_add h, runSteps_one]

/-- A frame none of whose beginnings is complete is stored byte by byte (R132, R133). -/
theorem runSteps_arrived {F : List Byte} (hF : F ≠ []) (h0 : byteAt F 0 = 0x81) (hfit : F.length ≤ 256)
    (hun : ∀ k ≤ F.length, expectedLen Cfg.device (F.take k) ≠ some k) (ha : s.asmState = .seekingHeader)
    (rest : List Input) :
    runSteps F.length { s with rx := inputs F ++ rest } = .next (arrived F { s with rx := rest }) := by
  induction F using List.reverseRecOn generalizing rest with
  | nil => exact absurd rfl hF
  | append_singleton P b ih =>
    rw [List.length_append, List.length_singleton] at hfit hun ⊢
    by_cases hP : P = []
    · subst hP
      obtain rfl : b = Cfg.device.header := h0
      exact (runSteps_one _).trans (step_header ha rest)
    have htake (k : Nat) (hk : k ≤ P.length) : (P ++ [b]).take k = P.take k := List.take_append_of_le_length hk
    have h0P : byteAt P 0 = 0x81 := by rwa [byteAt_append_left (List.length_pos_of_ne_nil hP)] at h0
    have harrive := ih hP h0P (by omega) (fun k hk => htake k hk ▸ hun k (by omega)) (.byte b :: rest)
    have hlen : expectedLen Cfg.device (P ++ [b]) ≠ some (P.length + 1) := by
      rw [← List.take_of_length_le (l := P ++ [b]) (i := P.length + 1) (by simp)]
      exact hun (P.length + 1) le_rfl
    exact (runSteps_append_byte harrive).trans (step_arrived hfit hlen s rest)

end Arrival

/-- Settles O21: all bytes but the last are stored, and the last completes the frame. -/
theorem arrivingFrameRuns : Obligations.ArrivingFrameRuns := by
  intro i s rest hi hwf hfit ha
  have hF : encode i = encodeBody Cfg.device i ++ [checksumField i] := rfl
  have hlen : layoutLength i = (encodeBody Cfg.device i).length + 1 := by
    rw [← encodeWith_length Cfg.device i, ← encode, hF, List.length_append, List.length_singleton]
  have hroom : (encodeBody Cfg.device i).length < 256 := by omega
  have hexpected : expectedLen Cfg.device (encode i) = some (layoutLength i) := expectedLen_encodeWith rfl hi hwf
  have hun (k : Nat) (hk : k ≤ (encodeBody Cfg.device i).length) :
      expectedLen Cfg.device ((encodeBody Cfg.device i).take k) ≠ some k := by
    rw [← List.take_append_of_le_length (l₂ := [checksumField i]) hk, ← hF]
    refine take_unfinished (fun E hE => ?_) hk (by simp [hF])
    obtain rfl := Option.some.inj (hexpected.symm.trans hE)
    omega
  have harrive := runSteps_arrived (encodeBody_ne_nil _ i) (byteAt_encodeBody_zero _ i) hroom.le hun ha
    (.byte (checksumField i) :: rest)
  have hdone : Completes Cfg.device (arrived (encodeBody Cfg.device i) { s with rx := .byte (checksumField i) :: rest })
      (checksumField i) :=
    ⟨rfl, hroom, by rw [partialFrame_arrived, ← hF, hexpected, hlen]; rfl⟩
  rw [hlen, hF, runSteps_append_byte harrive, step, takeInput_completed rfl hdone, partialFrame_arrived, ← hF,
    runFrame_encode hi]
  exact congrArg (fun u => exec i (releaseFrame u)) (stored_arrived _ _ { s with rx := rest })

/-- Settles O22, by induction over the stream. -/
theorem headerFreeStreamIsSilent : Obligations.HeaderFreeStreamIsSilent := by
  intro bytes s rest ha hnoise
  induction bytes with
  | nil => rfl
  | cons b bytes ih =>
    obtain ⟨hb, hbytes⟩ := List.forall_mem_cons.mp hnoise
    exact (runSteps_next (step_noise ha hb (inputs bytes ++ rest))).trans (ih hbytes)

/-- Settles O23: 256 bytes are stored, and the next one overflows. -/
theorem unfinishedFrameSwallows257Bytes : Obligations.UnfinishedFrameSwallows257Bytes := by
  intro F x s rest hlen h0 hlong ha
  have hne : F ≠ [] := by
    rintro rfl
    cases hlen
  have hun (k : Nat) (hk : k ≤ F.length) : expectedLen Cfg.device (F.take k) ≠ some k :=
    take_unfinished (hlen.symm ▸ hlong) hk le_rfl
  have harrive := runSteps_arrived hne h0 hlen.le hun ha (.byte x :: rest)
  have hfull : Overflows Cfg.device (arrived F { s with rx := .byte x :: rest }) := ⟨rfl, hlen⟩
  have hrun := runSteps_append_byte harrive
  rw [hlen] at hrun
  rw [hrun, step, takeInput_full rfl hfull]
  rfl

section Events
/-! What one step emits (R139): a completed frame's answer, or the overflow's diagnostic. -/

/-- The order of R139, with no overflow among the events. -/
structure AnswerEvents (evs : List Event) : Prop where
  ordered : evs.Pairwise (fun e f => e.rank < f.rank)
  no_overflow : ∀ info, .diag .frameOverflow info ∉ evs

/-- From `s` to `t` the events of an answer to a frame were emitted. -/
def Answers (s t : State) : Prop := ∃ evs, t.trace = s.trace ++ evs ∧ AnswerEvents evs

variable {c : Cfg} {F : List Byte} {s t u : State}

theorem answers_respond (hu : u.trace = s.trace) (c : Cfg) (k : ResponseKind) : Answers s (respond c k u) :=
  ⟨[.tx (responseFrame c k)], by rw [respond_trace, hu], by simp, by simp⟩

/-- An error but the overflow: its diagnostic comes before its response (R221). -/
theorem answers_raise {e : ErrorCode} (he : e ≠ .frameOverflow) (hu : u.trace = s.trace) (c : Cfg) (info : List Nat) :
    Answers s (raise c e info u) := by
  refine ⟨_, by rw [raise_trace, hu], ?_⟩
  cases e.response with
  | none => exact ⟨by simp, by simp [he.symm]⟩
  | some k => exact ⟨by simp [Event.rank], by simp [he.symm]⟩

/-- The overflow has no response (R222). -/
theorem ne_frameOverflow {e : ErrorCode} (h : e.response = some .nack) : e ≠ .frameOverflow := by
  rintro rfl
  cases h

theorem startHandler_answers (h : startHandler c F s = .next t) : Answers s t := by
  rcases startHandler_cases h with ⟨e, info, he, rfl⟩ | ⟨-, -, -, ⟨-, rfl⟩ | ⟨-, rfl⟩⟩
  · exact answers_raise (ne_frameOverflow he) rfl c info
  · exact answers_respond rfl c .ready
  · exact answers_raise (by decide) rfl c _

theorem dataHandler_answers (h : dataHandler c F s = .next t) : Answers s t := by
  rcases dataHandler_cases h with ⟨e, info, he, rfl⟩ | ⟨-, -, -, -, ⟨-, rfl⟩ | ⟨-, rfl⟩⟩
  · exact answers_raise (ne_frameOverflow he) rfl c info
  · exact answers_respond rfl c .ack
  · exact answers_raise (by decide) (by split <;> rfl) c _

/-- An accepted FILE_END: the count's warning if there is one, the `Store`, the ACK (R181, R184). -/
theorem endHandler_answers (h : endHandler c F s = .next t) : Answers s t := by
  rcases endHandler_cases h with ⟨e, info, he, rfl⟩ | ⟨-, -, rfl⟩ | ⟨-, -, -, -, rfl⟩
  · exact answers_raise (ne_frameOverflow he) rfl c info
  · exact answers_raise (by decide) rfl c _
  · rw [Answers, sessionClear_trace, respond_trace, emit_trace, warnCount_trace]
    simp only [List.append_assoc]
    refine ⟨_, rfl, ?_⟩
    split
    · exact ⟨by simp [Event.rank], by simp⟩
    · exact ⟨by simp [Event.rank], by simp⟩

theorem dispatch_answers (h : dispatch c F s = .next t) : Answers s t := by
  rcases dispatch_cases c F s with ⟨-, heq⟩ | ⟨-, heq⟩ | ⟨-, heq⟩ | heq <;> rw [heq] at h
  · exact startHandler_answers h
  · exact dataHandler_answers h
  · exact endHandler_answers h
  · exact Host.Outcome.next.inj h ▸ answers_raise (by decide) rfl c _

/-- What one step emits: nothing, the answer to the frame its byte completes, or the diagnostic of its overflow (R139). -/
theorem takeInput_events (h : takeInput c (dispatch c) s = .next t) :
    t.trace = s.trace ∨ ∃ b rest, s.rx = .byte b :: rest ∧
      (Completes c s b ∧ Answers s t ∨
       Overflows c s ∧ t.trace = s.trace ++ [.diag .frameOverflow [b.toNat]]) := by
  match hrx : s.rx with
  | [] =>
    rw [takeInput_empty hrx] at h
    exact .inl (Host.Outcome.next.inj h ▸ rfl)
  | .reset :: rest =>
    rw [takeInput_reset hrx] at h
    exact .inl (Host.Outcome.next.inj h ▸ rfl)
  | .byte b :: rest =>
    rw [takeInput_byte hrx] at h
    rcases ingest_cases h with ⟨-, rfl⟩ | ⟨ha, hfull, rfl⟩ | ⟨ha, hroom, ⟨hlen, h⟩ | ⟨-, rfl⟩⟩
    · exact .inl (seek_trace c b _)
    · exact .inr ⟨b, rest, rfl, .inr ⟨⟨ha, hfull⟩, overflow_trace c b _⟩⟩
    · have hanswers : Answers s t := dispatch_answers (s := releaseFrame (stored b { s with rx := rest })) h
      exact .inr ⟨b, rest, rfl, .inl ⟨⟨ha, hroom, hlen⟩, hanswers⟩⟩
    · exact .inl rfl

end Events

/-- Settles O17: the first two clauses are the cases of a full `Scratch` and of a byte that fills it and completes its frame;
for the third, no answer to a frame has an overflow among its events. -/
theorem fullScratchOverflows : Obligations.FullScratchOverflows := by
  intro c s hc
  refine ⟨fun b rest ha hfull hrx => ?_, fun b rest ha hlast hrx hlen => ?_, fun t info hstep hmem => ?_⟩
  · rw [stepWith_valid hc, takeInput_full hrx ⟨ha, hfull⟩, overflow_eq]
    rfl
  · exact completedFrameIsDispatched c s b rest hc hrx ⟨ha, by omega, hlast ▸ hlen⟩
  · rcases takeInput_events (stepWith_next hstep).2 with hnone | ⟨b, rest, hrx, ⟨-, evs, ht, hevs⟩ | ⟨hfull, -⟩⟩
    · simp [hnone] at hmem
    · rw [ht, List.drop_left] at hmem
      exact absurd hmem (hevs.no_overflow info)
    · exact ⟨hfull, b, rest, hrx⟩

/-- Settles O26: the events of a step are those of the one frame it completes, or its overflow's. -/
theorem eventsOfOneStep : Obligations.EventsOfOneStep := by
  intro s t hstep
  rw [step_eq_takeInput_dispatch] at hstep
  have hforced {evs : List Event} (ht : t.trace = s.trace ++ evs) (hfull : Overflows Cfg.device s) (b : Byte)
      (rest : List Input) (hrx : s.rx = .byte b :: rest) : evs = [.diag .frameOverflow [b.toNat]] := by
    rw [takeInput_full hrx hfull] at hstep
    rw [← Host.Outcome.next.inj hstep, overflow_trace] at ht
    exact (List.append_cancel_left ht).symm
  rcases takeInput_events hstep with hnone | ⟨b, rest, hrx, ⟨hdone, evs, ht, hevs⟩ | ⟨hfull, ht⟩⟩
  · have ht : t.trace = s.trace ++ [] := by rw [hnone, List.append_nil]
    exact ⟨[], ht, .nil, fun h => absurd rfl h, hforced ht⟩
  · exact ⟨evs, ht, hevs.ordered, fun _ => ⟨b, rest, hrx, .inl hdone⟩, hforced ht⟩
  · exact ⟨_, ht, List.pairwise_singleton _ _, fun _ => ⟨b, rest, hrx, .inr hfull⟩, hforced ht⟩

end Sys2Proof.Machine

/-! Family 42_commands.md: what each command does when it is accepted and when it is refused (R161 to R185), that a
dispatched frame gets exactly one response and nothing else does (R190, R193), and a whole transfer from its first byte on. -/

namespace Sys2Proof.Machine

open MemoryLaws

section Refusals
/-! An error answered with NACK writes the trace alone (R221), and the two events are those of `refusedWith`. -/

theorem raise_eq_refusedWith {e : ErrorCode} (he : e.response = some .nack) (info : List Nat) (s : State) :
    raise Cfg.device e info s = refusedWith s e info := by
  have hnack : responseFrame Cfg.device .nack = [0x81, 0x94, 0x15] := rfl
  simp only [raise, he, respondIfAny, respond, hnack, State.emit, refusedWith, List.append_assoc, List.cons_append,
    List.nil_append]

end Refusals

section Start
/-! FILE_START (R161 to R168). -/

variable {filename : List Byte} {size : Quad}

/-- The checks that a dispatched FILE_START can fail, in their order (R162, R164, R166); it is never too short for its
fields. -/
theorem exec_fileStart_checks (hlen : filename.length ≤ 255) (cs : Byte) (s : State) :
    exec (.fileStart filename size cs) s = .next (
      if 63 < filename.length then refusedWith s .startNameTooLong [filename.length]
      else if 10240 < size.toNat then refusedWith s .startSizeTooLarge [size.toNat]
      else verifyStart Cfg.device (encode (.fileStart filename size cs))
        (openSession Cfg.device filename size.toNat s)) := by
  obtain ⟨-, hn, hf, hz⟩ := fileStart_operands Cfg.device filename size cs hlen
  have hF : (encode (.fileStart filename size cs)).length = filename.length + 8 := encodeWith_length _ _
  have hmin : ¬ filename.length + 8 < Cfg.device.minStart := Nat.not_lt.mpr (Nat.le_add_left _ _)
  rw [← encode] at hn hf hz
  change startHandler Cfg.device (encode (.fileStart filename size cs)) s = _
  simp (disch := decide) only [startHandler, hn, hf, hz, hF, hmin, Nat.lt_irrefl, if_false, gt_iff_lt,
    raise_eq_refusedWith, apply_ite Host.Outcome.next]
  rfl

/-- Settles O35: the fields are those of the session that FILE_START opens. -/
theorem fileStartOpensSession : Obligations.FileStartOpensSession := by
  intro filename size cs s hname hsize hcs
  have hdeclared : BitVec.ofNat 32 size.toNat = size := BitVec.ofNat_toNat 32 size
  rw [exec_fileStart_accepted hname hsize hcs, openSession, hdeclared]
  rfl

/-- Settles O37: the name's length is the first check that a dispatched FILE_START can fail. -/
theorem fileStartRefusesLongName : Obligations.FileStartRefusesLongName := by
  intro filename size cs s hlong hlen
  rw [exec_fileStart_checks hlen, if_pos (Nat.lt_of_succ_le hlong)]

/-- Settles O38: the size is checked before anything is written. -/
theorem fileStartRefusesLargeSize : Obligations.FileStartRefusesLargeSize := by
  intro filename size cs s hname hlarge
  rw [exec_fileStart_checks (by omega), if_neg (Nat.not_lt.mpr hname), if_pos hlarge]

/-- Settles O39: the session is opened and cleared again, and nothing of the earlier one comes back. -/
theorem fileStartChecksumFailureClears : Obligations.FileStartChecksumFailureClears := by
  intro filename size cs good s hname hsize hgood hcs
  have hbody : checksum (encodeBody Cfg.device (.fileStart filename size cs)) = good := hgood.symm
  have hbad : ¬ checksumOK (encode (.fileStart filename size cs)) = true := by
    rw [encode, checksumOK_encode, beq_iff_eq, hbody]
    exact hcs.symm
  rw [exec_fileStart_checks (by omega), if_neg (Nat.not_lt.mpr hname), if_neg (Nat.not_lt.mpr hsize), verifyStart,
    if_neg hbad, encode, receivedChecksum_encode, computedChecksum_encode, hbody, raise_eq_refusedWith rfl]
  rfl

end Start

section Data
/-! FILE_DATA (R170 to R177). -/

/-- The checks that a dispatched FILE_DATA can fail, in their order (R172, R174); its payload is never too long, nor the
frame too short for it. -/
theorem exec_fileData_checks {data : List Byte} (hlen : data.length ≤ 255) (seq : Half) (cs : Byte) (s : State) :
    exec (.fileData seq data cs) s =
      if s.active = false then .next (refusedWith s .dataNoSession [])
      else if seq.toNat = 0 then .next (refusedWith s .dataSeqZero [])
      else if 10240 < (seq.toNat - 1) * 256 + data.length then
        .next (refusedWith s .dataOutOfBounds [(seq.toNat - 1) * 256, data.length])
      else storePacket Cfg.device (encode (.fileData seq data cs)) s := by
  obtain ⟨-, hs, hn, -⟩ := fileData_operands Cfg.device seq data cs hlen
  have hF : (encode (.fileData seq data cs)).length = data.length + 6 := encodeWith_length _ _
  have hmin : ¬ data.length + 6 < Cfg.device.minData := Nat.not_lt.mpr (Nat.le_add_left _ _)
  have hpayload : ¬ Cfg.device.maxPayload < data.length := Nat.not_lt.mpr (Nat.le_succ_of_le hlen)
  rw [← encode] at hs hn
  change dataHandler Cfg.device (encode (.fileData seq data cs)) s = _
  simp (disch := decide) only [dataHandler, hs, hn, hF, hmin, hpayload, Nat.lt_irrefl, if_false, gt_iff_lt,
    raise_eq_refusedWith]
  rfl

/-- A FILE_DATA inside the buffer of an active session and with its right checksum is stored, counted and answered ACK
(R171). -/
theorem exec_fileData_accepted {seq : Half} {data : List Byte} {cs : Byte} {s : State} (ha : s.active = true)
    (hlen : data.length ≤ 255) (hseq : 1 ≤ seq.toNat) (hfit : (seq.toNat - 1) * 256 + data.length ≤ 10240)
    (hcs : cs = checksum ([0x81, 0x91] ++ be16Bytes seq ++ [BitVec.ofNat 8 data.length] ++ data)) :
    exec (.fileData seq data cs) s =
      .next (respond Cfg.device .ack (countPacket Cfg.device (written ((seq.toNat - 1) * 256) data s))) := by
  rw [exec_fileData_inBounds cs ha hlen hseq hfit, if_pos hcs.symm]

/-- Settles O40: the counter's width is 16 bits. -/
theorem fileDataStoresPacket : Obligations.FileDataStoresPacket := by
  intro seq data cs s ha hlen hseq hfit hcs
  rw [exec_fileData_accepted ha hlen hseq hfit hcs]
  rfl

/-- Settles O41: the copy comes before the checksum check. -/
theorem fileDataChecksumFailureKeepsWrite : Obligations.FileDataChecksumFailureKeepsWrite := by
  intro seq data cs good s ha hlen hseq hfit hgood hcs
  rw [exec_fileData_inBounds cs ha hlen hseq hfit, ← hgood, if_neg hcs.symm, raise_eq_refusedWith rfl]
  rfl

/-- Settles O42, check by check. -/
theorem fileDataRefusals : Obligations.FileDataRefusals := by
  intro seq data cs s hlen
  rw [exec_fileData_checks hlen]
  refine ⟨fun hidle => if_pos hidle, fun ha hzero => ?_, fun ha hseq hout => ?_⟩
  · rw [if_neg (ne_false_of_eq_true ha), if_pos hzero]
  · rw [if_neg (ne_false_of_eq_true ha), if_neg (Nat.ne_of_gt hseq), if_pos hout]

/-- Settles O43: a refusal writes the trace alone, and the copy writes inside the payload's place. -/
theorem fileDataFrame : Obligations.FileDataFrame := by
  intro seq data cs s t hlen hexec
  obtain ⟨-, hs, -, hd⟩ := fileData_operands Cfg.device seq data cs hlen
  rcases dataHandler_cases hexec with ⟨e, info, he, rfl⟩ | ⟨-, -, -, -, hanswer⟩
  · rw [raise_eq_refusedWith he]
    exact ⟨rfl, fun _ _ => rfl⟩
  rw [encode, hs, hd] at hanswer
  rcases hanswer with ⟨-, rfl⟩ | ⟨-, rfl⟩
  · exact ⟨rfl, fun _ => read_writeBytes_outside⟩
  · rw [raise_eq_refusedWith rfl]
    exact ⟨rfl, fun _ => read_writeBytes_outside⟩

end Data

section End
/-! FILE_END (R180 to R185). -/

/-- The checks that a dispatched FILE_END can fail, in their order (R182, R183); it is never too short. -/
theorem exec_fileEnd_checks (total : Half) (cs : Byte) (s : State) :
    exec (.fileEnd total cs) s =
      if s.active = false then .next (refusedWith s .endNoSession [])
      else if checksum ([0x81, 0x92] ++ be16Bytes total) = cs then storeFile Cfg.device (warnCount total.toNat s)
      else .next (refusedWith (sessionClear s) .endChecksum
        [cs.toNat, (checksum ([0x81, 0x92] ++ be16Bytes total)).toNat]) := by
  obtain ⟨-, htotal⟩ := fileEnd_operands Cfg.device total cs
  have hF : (encodeWith Cfg.device (.fileEnd total cs)).length = 5 := encodeWith_length _ _
  have hmin : ¬ 5 < Cfg.device.minEnd := by decide
  change endHandler Cfg.device (encodeWith Cfg.device (.fileEnd total cs)) s = _
  simp (disch := decide) only [endHandler, htotal, hF, hmin, if_false, checksumOK_encode, receivedChecksum_encode,
    computedChecksum_encode, raise_eq_refusedWith, beq_eq_false_iff_ne, ne_eq, ite_not]
  rfl

/-- An accepted FILE_END leaves what `SessionClear()` leaves, and its events. -/
theorem fileStored_eq_sessionClear (c : Cfg) (total : Nat) (s : State) :
    fileStored c total s = { sessionClear s with trace := (fileStored c total s).trace } := by
  unfold fileStored warnCount
  split <;> rfl

/-- Settles O46: the clear comes last and leaves the events. -/
theorem fileEndStoresFile : Obligations.FileEndStoresFile := by
  intro total cs s ha hname hsize hcs
  rw [exec_fileEnd_accepted ha hname hsize hcs, fileStored_eq_sessionClear, fileStored_trace, ← List.append_assoc]
  rfl

/-- Settles O47: the clear comes before the refusal, which stores nothing. -/
theorem fileEndChecksumFailureClears : Obligations.FileEndChecksumFailureClears := by
  intro total cs good s ha hgood hcs
  rw [exec_fileEnd_checks, if_neg (ne_false_of_eq_true ha), ← hgood, if_neg hcs.symm]
  rfl

/-- Settles O48: the session is the first thing FILE_END checks. -/
theorem fileEndRefusedWithoutSession : Obligations.FileEndRefusedWithoutSession := by
  intro total cs s hidle
  rw [exec_fileEnd_checks, if_pos hidle]

end End

/-- Settles O52: each check is reached where those before it pass. -/
theorem shortFramesAreRefused : Obligations.ShortFramesAreRefused := by
  intro c F s
  refine ⟨fun hshort => if_pos hshort, fun hmin hname hshort => ?_, fun ha hshort => ?_, fun ha hmin hlong => ?_,
    fun ha hmin hpayload hshort => ?_, fun ha hshort => ?_⟩
  · rw [startHandler, if_neg (Nat.not_lt.mpr hmin), if_neg (Nat.not_lt.mpr hname), if_pos hshort]
  · rw [dataHandler, if_neg (ne_false_of_eq_true ha), if_pos hshort]
  · rw [dataHandler, if_neg (ne_false_of_eq_true ha), if_neg (Nat.not_lt.mpr hmin), if_pos hlong]
  · rw [dataHandler, if_neg (ne_false_of_eq_true ha), if_neg (Nat.not_lt.mpr hmin), if_neg (Nat.not_lt.mpr hpayload),
      if_pos hshort]
  · rw [endHandler, if_neg (ne_false_of_eq_true ha), if_pos hshort]

/-- Settles O53: `UNKNOWN_COMMAND` has no response (R222). -/
theorem unknownCommandIsDropped : Obligations.UnknownCommandIsDropped := by
  intro c F s hstart hdata hend
  rw [dispatch, if_neg hstart, if_neg hdata, if_neg hend]
  rfl

section Untouched
/-! What no instruction touches (R161, R170, R180, R210). -/

/-- The assembler, the scratch buffer and the inputs to come are in `t` as they are in `s`. -/
structure InputSideKept (s t : State) : Prop where
  asmState : t.asmState = s.asmState
  frameLen : t.frameLen = s.frameLen
  scratch : t.scratch = s.scratch
  rx : t.rx = s.rx

variable {c : Cfg} {F : List Byte} {s t : State}

theorem InputSideKept.raise (h : InputSideKept s t) (c : Cfg) (e : ErrorCode) (info : List Nat) :
    InputSideKept s (raise c e info t) :=
  ⟨(raise_asmState ..).trans h.asmState, (raise_frameLen ..).trans h.frameLen, (raise_scratch ..).trans h.scratch,
    (raise_rx ..).trans h.rx⟩

theorem startHandler_keeps_inputSide (h : startHandler c F s = .next t) : InputSideKept s t := by
  rcases startHandler_cases h with ⟨e, info, -, rfl⟩ | ⟨-, -, -, ⟨-, rfl⟩ | ⟨-, rfl⟩⟩
  · exact .raise ⟨rfl, rfl, rfl, rfl⟩ c e info
  · exact ⟨rfl, rfl, rfl, rfl⟩
  · refine .raise ?_ c _ _
    exact ⟨rfl, rfl, rfl, rfl⟩

theorem dataHandler_keeps_inputSide (h : dataHandler c F s = .next t) : InputSideKept s t := by
  rcases dataHandler_cases h with ⟨e, info, -, rfl⟩ | ⟨-, -, -, -, ⟨-, rfl⟩ | ⟨-, rfl⟩⟩
  · exact .raise ⟨rfl, rfl, rfl, rfl⟩ c e info
  · exact ⟨rfl, rfl, rfl, rfl⟩
  · refine .raise ?_ c _ _
    split <;> exact ⟨rfl, rfl, rfl, rfl⟩

theorem endHandler_keeps_inputSide (h : endHandler c F s = .next t) : InputSideKept s t := by
  rcases endHandler_cases h with ⟨e, info, -, rfl⟩ | ⟨-, -, rfl⟩ | ⟨-, -, -, -, rfl⟩
  · exact .raise ⟨rfl, rfl, rfl, rfl⟩ c e info
  · refine .raise ?_ c _ _
    exact ⟨rfl, rfl, rfl, rfl⟩
  · constructor <;> simp

/-- Every instruction is a handler on its frame or the sending of a response. -/
theorem exec_keeps_inputSide {i : Instr} (h : exec i s = .next t) : InputSideKept s t := by
  cases i with
  | fileStart filename size cs => exact startHandler_keeps_inputSide h
  | fileData seq data cs => exact dataHandler_keeps_inputSide h
  | fileEnd total cs => exact endHandler_keeps_inputSide h
  | ack cs => exact Host.Outcome.next.inj h ▸ ⟨rfl, rfl, rfl, rfl⟩
  | nack cs => exact Host.Outcome.next.inj h ▸ ⟨rfl, rfl, rfl, rfl⟩
  | ready cs => exact Host.Outcome.next.inj h ▸ ⟨rfl, rfl, rfl, rfl⟩

/-- A response frame is an event and nothing else (R210). -/
theorem exec_response {i : Instr} (hi : i.isCommand = false) (s : State) :
    ∃ k, exec i s = .next (respond Cfg.device k s) := by
  cases i with
  | fileStart filename size cs => cases hi
  | fileData seq data cs => cases hi
  | fileEnd total cs => cases hi
  | ack cs => exact ⟨.ack, rfl⟩
  | nack cs => exact ⟨.nack, rfl⟩
  | ready cs => exact ⟨.ready, rfl⟩

end Untouched

/-- Settles O50: the handlers write the session and the trace, a response the trace alone. -/
theorem execLeavesAssemblerAlone : Obligations.ExecLeavesAssemblerAlone := by
  intro i s t hexec
  have hkept := exec_keeps_inputSide hexec
  refine ⟨hkept.asmState, hkept.frameLen, hkept.scratch, hkept.rx, fun hi => ?_⟩
  obtain ⟨k, hk⟩ := exec_response hi s
  obtain rfl := Host.Outcome.next.inj (hk.symm.trans hexec)
  rfl

section OneResponse
/-! How many responses a frame gets (R193). -/

/-- From `s` to `t` exactly one `Tx` was emitted, the response `k`. -/
def RespondsOnce (c : Cfg) (k : ResponseKind) (s t : State) : Prop :=
  ∃ evs, t.trace = s.trace ++ evs ∧ evs.filter Event.isTx = [.tx (responseFrame c k)]

variable {c : Cfg} {F : List Byte} {s t u : State}

theorem respondsOnce_respond (hu : u.trace = s.trace) (c : Cfg) (k : ResponseKind) :
    RespondsOnce c k s (respond c k u) :=
  ⟨[.tx (responseFrame c k)], by rw [respond_trace, hu], rfl⟩

/-- An error's one `Tx` is its NACK (R221). -/
theorem respondsOnce_raise {e : ErrorCode} (he : e.response = some .nack) (hu : u.trace = s.trace) (c : Cfg)
    (info : List Nat) : RespondsOnce c .nack s (raise c e info u) :=
  ⟨[.diag e info, .tx (responseFrame c .nack)], by rw [raise_trace, he, hu], rfl⟩

theorem startHandler_respondsOnce (h : startHandler c F s = .next t) :
    RespondsOnce c .ready s t ∨ RespondsOnce c .nack s t := by
  rcases startHandler_cases h with ⟨e, info, he, rfl⟩ | ⟨-, -, -, ⟨-, rfl⟩ | ⟨-, rfl⟩⟩
  · exact .inr (respondsOnce_raise he rfl c info)
  · exact .inl (respondsOnce_respond rfl c .ready)
  · exact .inr (respondsOnce_raise rfl rfl c _)

theorem dataHandler_respondsOnce (h : dataHandler c F s = .next t) :
    RespondsOnce c .ack s t ∨ RespondsOnce c .nack s t := by
  rcases dataHandler_cases h with ⟨e, info, he, rfl⟩ | ⟨-, -, -, -, ⟨-, rfl⟩ | ⟨-, rfl⟩⟩
  · exact .inr (respondsOnce_raise he rfl c info)
  · exact .inl (respondsOnce_respond rfl c .ack)
  · exact .inr (respondsOnce_raise rfl (by split <;> rfl) c _)

/-- The count's warning has no response, and a `Store` is none (R184, R181). -/
theorem endHandler_respondsOnce (h : endHandler c F s = .next t) :
    RespondsOnce c .ack s t ∨ RespondsOnce c .nack s t := by
  rcases endHandler_cases h with ⟨e, info, he, rfl⟩ | ⟨-, -, rfl⟩ | ⟨-, -, -, -, rfl⟩
  · exact .inr (respondsOnce_raise he rfl c info)
  · exact .inr (respondsOnce_raise rfl rfl c _)
  · refine .inl ⟨_, fileStored_trace c (totalPacketsOf F) s, ?_⟩
    split <;> rfl

/-- One of two responses is one list of events with one of two `Tx` in it. -/
theorem RespondsOnce.either {k k' : ResponseKind} (h : RespondsOnce c k s t ∨ RespondsOnce c k' s t) :
    ∃ evs, t.trace = s.trace ++ evs ∧
      (evs.filter Event.isTx = [.tx (responseFrame c k)] ∨ evs.filter Event.isTx = [.tx (responseFrame c k')]) := by
  simpa only [RespondsOnce, ← exists_or, ← and_or_left] using h

end OneResponse

/-- Settles O51: each way a handler ends has its one response, and the overflow's diagnostic, the one event of a step that
completes no frame, is none. -/
theorem oneResponsePerDispatchedFrame : Obligations.OneResponsePerDispatchedFrame := by
  refine ⟨fun _ _ _ _ _ h => (RespondsOnce.either (startHandler_respondsOnce h) :),
    fun _ _ _ _ _ h => (RespondsOnce.either (dataHandler_respondsOnce h) :),
    fun _ _ _ _ h => (RespondsOnce.either (endHandler_respondsOnce h) :), fun s t hstep hnot => ?_⟩
  rw [step_eq_takeInput_dispatch] at hstep
  rcases takeInput_events hstep with hnone | ⟨b, rest, hrx, ⟨hdone, -⟩ | ⟨-, ht⟩⟩
  · exact ⟨[], by rw [hnone, List.append_nil], rfl⟩
  · exact absurd hdone (hnot b rest hrx)
  · exact ⟨_, ht, rfl⟩

section Transfer
/-! Frames that arrive back to back, the last byte of one right before the first of the next (R281). -/

/-- The bytes `F` arrive in `s` with `rest` after them; when they are taken, the block is in `u`, seeking a header, and it
has emitted the events `evs`. -/
structure Takes (F : List Byte) (rest : List Input) (evs : List Event) (s u : State) : Prop where
  run : runSteps F.length { s with rx := inputs F ++ rest } = .next u
  idle : u.asmState = .seekingHeader
  rx : u.rx = rest
  trace : u.trace = s.trace ++ evs

theorem Takes.append {F G : List Byte} {rest : List Input} {evs evs' : List Event} {s u v : State}
    (h : Takes F (inputs G ++ rest) evs s u) (h' : Takes G rest evs' u v) : Takes (F ++ G) rest (evs ++ evs') s v where
  run := by
    have hrx : inputs (F ++ G) ++ rest = inputs F ++ (inputs G ++ rest) := by
      rw [inputs, List.map_append, List.append_assoc]
      rfl
    have hu : { u with rx := inputs G ++ rest } = u := by rw [← h.rx]
    rw [List.length_append, hrx, runSteps_add h.run, ← hu]
    exact h'.run
  idle := h'.idle
  rx := h'.rx
  trace := by rw [h'.trace, h.trace, List.append_assoc]

/-- The state in which the frame `F` has been taken, the assembler released, and `rest` is still to come (R135). -/
def taken (F : List Byte) (rest : List Input) (s : State) : State :=
  { s with rx := rest, asmState := .seekingHeader, frameLen := 0, scratch := s.scratch.writeBytes 0 F }

/-- A command frame that fits `Scratch` is taken by running its instruction. -/
theorem takes_frame {i : Instr} {rest : List Input} {evs : List Event} {s u : State} (hi : i.isCommand = true)
    (hwf : i.wellFormed Cfg.device = true) (hfit : layoutLength i ≤ 256) (ha : s.asmState = .seekingHeader)
    (hexec : exec i (taken (encode i) rest s) = .next u) (htrace : u.trace = s.trace ++ evs) :
    Takes (encode i) rest evs s u where
  run := by
    rw [encode, encodeWith_length, ← encode, arrivingFrameRuns i s rest hi hwf hfit ha]
    exact hexec
  idle := (exec_keeps_inputSide hexec).asmState
  rx := (exec_keeps_inputSide hexec).rx
  trace := htrace

/-- Signing a frame does not change its layout. -/
@[simp] theorem layoutLength_signed (i : Instr) : layoutLength i.signed = layoutLength i := by
  cases i <;> rfl

/-- A session is open for a file of this name and size, with `count` packets accepted and these bytes received. -/
structure Receiving (filename : List Byte) (size : Quad) (count : Nat) (received : Memory) (s : State) : Prop where
  active : s.active = true
  name : s.name = Memory.zeros.writeBytes 0 filename
  nameLen : s.nameLen = filename.length
  declaredSize : s.declaredSize = size
  count_eq : s.receivedPacketCount = count
  buffer : s.buffer = received

variable {filename data : List Byte} {size : Quad} {count : Nat} {received : Memory} {s : State}

theorem takes_fileStart (hname : filename.length ≤ 63) (hsize : size.toNat ≤ 10240) (ha : s.asmState = .seekingHeader)
    (rest : List Input) :
    ∃ u, Takes (encode (Instr.fileStart filename size 0).signed) rest [.tx [0x81, 0x95, 0x16]] s u ∧
      Receiving filename size 0 Memory.zeros u := by
  refine ⟨_, takes_frame rfl (decide_eq_true (by omega)) ?_ ha (exec_fileStart_accepted hname hsize rfl _) rfl,
    rfl, rfl, rfl, BitVec.ofNat_toNat 32 size, rfl, rfl⟩
  rw [layoutLength_signed, layoutLength]
  omega

theorem takes_fileData {seq : Half} (hopen : Receiving filename size count received s) (hlen : data.length ≤ 250)
    (hseq : 1 ≤ seq.toNat) (hfit : (seq.toNat - 1) * 256 + data.length ≤ 10240) (ha : s.asmState = .seekingHeader)
    (rest : List Input) :
    ∃ u, Takes (encode (Instr.fileData seq data 0).signed) rest [.tx [0x81, 0x93, 0x14]] s u ∧
      Receiving filename size ((count + 1) % 65536) (received.writeBytes ((seq.toNat - 1) * 256) data) u := by
  obtain ⟨hactive, hname, hnameLen, hsize, hcount, hbuffer⟩ := hopen
  refine ⟨_, takes_frame rfl (decide_eq_true (by omega)) ?_ ha
    (exec_fileData_accepted hactive (by omega) hseq hfit rfl) rfl, hactive, hname, hnameLen, hsize, ?_, ?_⟩
  · rw [layoutLength_signed, layoutLength]
    omega
  · rw [← hcount]
    rfl
  · rw [← hbuffer]
    rfl

theorem takes_fileEnd {total : Half} (hopen : Receiving filename size count received s) (hname : filename.length ≤ 63)
    (hsize : size.toNat ≤ 10240) (htotal : total.toNat = count) (ha : s.asmState = .seekingHeader) (rest : List Input) :
    ∃ u, Takes (encode (Instr.fileEnd total 0).signed) rest
      [.store filename (received.readBytes 0 size.toNat) size.toNat, .tx [0x81, 0x93, 0x14]] s u ∧ SessionEmpty u := by
  obtain ⟨hactive, hnameEq, hnameLen, rfl, hcount, rfl⟩ := hopen
  have hnameFits : s.nameLen ≤ 64 := by omega
  have hread : s.name.readBytes 0 s.nameLen = filename := by
    rw [hnameEq, hnameLen, readBytes_writeBytes]
  refine ⟨_, takes_frame rfl rfl ?_ ha (exec_fileEnd_accepted hactive hnameFits hsize rfl) ?_, sessionClear_empty _⟩
  · rw [layoutLength_signed, layoutLength]
    omega
  · simp only [fileStored_trace, taken, htotal, hcount, if_true, List.nil_append, hread]
    rfl

end Transfer

/-- Settles O54: the packet's place is the beginning of the buffer, which FILE_START zeroed, and the count is one. -/
theorem onePacketTransferDeliversFile : Obligations.OnePacketTransferDeliversFile := by
  intro filename data s rest hname hdata ha size frames
  have hsize : size.toNat = data.length := by
    simp only [size, BitVec.toNat_ofNat]
    omega
  have hfits : size.toNat ≤ 10240 := by omega
  have hplace : ((1 : Half).toNat - 1) * 256 + data.length ≤ 10240 := by simp; omega
  obtain ⟨s₁, hstart, hopen⟩ := takes_fileStart hname hfits ha (inputs (encode (Instr.fileData 1 data 0).signed) ++
    (inputs (encode (Instr.fileEnd 1 0).signed) ++ rest))
  obtain ⟨s₂, hpacket, hstored⟩ := takes_fileData hopen hdata le_rfl hplace hstart.idle
    (inputs (encode (Instr.fileEnd 1 0).signed) ++ rest)
  obtain ⟨t, hend, hempty⟩ := takes_fileEnd (total := 1) hstored hname hfits rfl hpacket.idle rest
  have hread : (Memory.zeros.writeBytes (((1 : Half).toNat - 1) * 256) data).readBytes 0 size.toNat = data := by
    rw [hsize]
    exact readBytes_writeBytes Memory.zeros 0 data
  have htakes := (hstart.append hpacket).append hend
  refine ⟨t, htakes.run, ?_, hempty, htakes.idle, htakes.rx⟩
  rw [htakes.trace, hread, hsize]
  rfl

end Sys2Proof.Machine

/-! Family 43_responder.md: a response frame is three bytes (R95, R210), and the meaning of ACK, NACK and READY is its sending
(R211 to R213). -/

namespace Sys2Proof.Machine

section Responder
/-! `Respond` (R210), for every `cfg`: the frame's last byte is the sum of the two before it (R120, R122). -/

theorem responseFrame_eq (c : Cfg) (k : ResponseKind) :
    responseFrame c k = [c.header, responseCommand c k, c.header + responseCommand c k] := by
  have hsum : checksum [c.header, responseCommand c k] = c.header + responseCommand c k := by
    rw [checksum_cons, checksum_cons, checksum_nil, add_zero]
  rw [responseFrame, hsum, List.cons_append, List.cons_append, List.nil_append]

/-- One event at the end of the trace is all that `Respond` adds. -/
theorem respond_eq (c : Cfg) (k : ResponseKind) (s : State) :
    respond c k s = { s with
      trace := s.trace ++ [.tx [c.header, responseCommand c k, c.header + responseCommand c k]] } := by
  rw [respond, responseFrame_eq, State.emit]

end Responder

/-- Settles O11: each kind has its command byte. -/
theorem respondEmitsOneFrame : Obligations.RespondEmitsOneFrame :=
  fun c s => ⟨respond_eq c .ack s, respond_eq c .nack s, respond_eq c .ready s⟩

/-- Settles O12: `exec` of a response is `Respond` of its kind at the device's `cfg`, whose bytes R104 writes out. -/
theorem responseFramesAreSent : Obligations.ResponseFramesAreSent := by
  intro cs s
  obtain ⟨hack, hnack, hready⟩ := respondEmitsOneFrame Cfg.device s
  exact ⟨congrArg Host.Outcome.next hack, congrArg Host.Outcome.next hnack, congrArg Host.Outcome.next hready⟩

end Sys2Proof.Machine

/-! Family 60_exceptions.md: which errors have a response (R212, R222), and that the error entry `raise` writes the trace alone
(R221). -/

namespace Sys2Proof.Machine

section ErrorEntry
/-! `raise` (R221), for every `cfg`, error and state. -/

/-- The column of responses of R222: NACK is the only response, and three entries have none. -/
theorem errorCode_response_eq (e : ErrorCode) :
    e.response = if e = .frameOverflow ∨ e = .unknownCommand ∨ e = .endCountMismatch then none else some .nack := by
  cases e <;> rfl

theorem raise_of_response_none {e : ErrorCode} (he : e.response = none) (c : Cfg) (info : List Nat) (s : State) :
    raise c e info s = { s with trace := s.trace ++ [.diag e info] } := by
  rw [raise, he, respondIfAny, State.emit]

theorem raise_of_response_some {e : ErrorCode} {k : ResponseKind} (he : e.response = some k) (c : Cfg) (info : List Nat)
    (s : State) :
    raise c e info s = { s with trace := s.trace ++ [.diag e info] ++ [.tx (responseFrame c k)] } := by
  rw [raise, he, respondIfAny, respond_eq, ← responseFrame_eq, State.emit]

end ErrorEntry

/-- Settles O13: the error's response decides whether NACK follows the diagnostic. -/
theorem raiseEmitsDiagThenNack : Obligations.RaiseEmitsDiagThenNack := by
  intro c e info s
  have hresponse := errorCode_response_eq e
  split at hresponse
  case isTrue hsilent => rw [raise_of_response_none hresponse, if_pos hsilent, List.append_nil]
  case isFalse hloud => rw [raise_of_response_some hresponse, if_neg hloud]

end Sys2Proof.Machine

/-! Family 70_reset_and_hazards.md: what reset leaves (R260 to R262), that noise brings the assembler back to SEEKING_HEADER
(R271), that a correct packet repairs the slot of a corrupted one (R273), and the slot positions no packet writes (R274). -/

namespace Sys2Proof.Machine

open MemoryLaws

section SlotHoles
/-! No operation writes slot positions 250 to 255 (R274): FILE_DATA alone writes payload bytes, at most 250 from a slot's
start on, and the other writes zero the whole buffer. -/

variable {c : Cfg} {F : List Byte} {s t : State}

/-- The slot holes are a matter of the buffer alone. -/
theorem HolesEmpty.of_buffer_eq (h : HolesEmpty s) (ht : t.buffer = s.buffer) : HolesEmpty t :=
  fun a ha => ht ▸ h a ha

theorem holesEmpty_of_zeros (ht : t.buffer = Memory.zeros) : HolesEmpty t :=
  fun a _ => ht ▸ read_zeros a

/-- A payload of at most 250 bytes ends before the holes of its slot (R66, R98). -/
theorem HolesEmpty.written (h : HolesEmpty s) (seq : Nat) {data : List Byte} (hlen : data.length ≤ 250) :
    HolesEmpty (written (packetOffset Cfg.device seq) data s) := by
  intro a ha
  have hoff : packetOffset Cfg.device seq = (seq - 1) * 256 := rfl
  exact (read_writeBytes_outside (by omega)).trans (h a ha)

theorem startHandler_keeps_holes (h : HolesEmpty s) (hrun : startHandler c F s = .next t) : HolesEmpty t := by
  rcases startHandler_cases hrun with ⟨e, info, -, rfl⟩ | ⟨-, -, -, ⟨-, rfl⟩ | ⟨-, rfl⟩⟩
  · exact h.of_buffer_eq (raise_buffer ..)
  · exact holesEmpty_of_zeros rfl
  · exact holesEmpty_of_zeros (raise_buffer ..)

/-- A frame that fits `Scratch` has at most 250 payload bytes (R98). -/
theorem dataHandler_keeps_holes (h : HolesEmpty s) (hfit : F.length ≤ 256)
    (hrun : dataHandler Cfg.device F s = .next t) : HolesEmpty t := by
  rcases dataHandler_cases hrun with ⟨e, info, -, rfl⟩ | ⟨-, hframe, -, -, hanswer⟩
  · exact h.of_buffer_eq (raise_buffer ..)
  have hdata := dataOf_length_le F
  have hwritten := h.written (seqNumOf F) (data := dataOf F) (by omega)
  rcases hanswer with ⟨-, rfl⟩ | ⟨-, rfl⟩
  · exact hwritten.of_buffer_eq rfl
  · exact hwritten.of_buffer_eq (raise_buffer ..)

theorem endHandler_keeps_holes (h : HolesEmpty s) (hrun : endHandler c F s = .next t) : HolesEmpty t := by
  rcases endHandler_cases hrun with ⟨e, info, -, rfl⟩ | ⟨-, -, rfl⟩ | ⟨-, -, -, -, rfl⟩
  · exact h.of_buffer_eq (raise_buffer ..)
  · exact holesEmpty_of_zeros (raise_buffer ..)
  · exact holesEmpty_of_zeros rfl

theorem dispatch_keeps_holes (h : HolesEmpty s) (hfit : F.length ≤ 256)
    (hrun : dispatch Cfg.device F s = .next t) : HolesEmpty t := by
  rcases dispatch_cases Cfg.device F s with ⟨-, heq⟩ | ⟨-, heq⟩ | ⟨-, heq⟩ | heq <;> rw [heq] at hrun
  · exact startHandler_keeps_holes h hrun
  · exact dataHandler_keeps_holes h hfit hrun
  · exact endHandler_keeps_holes h hrun
  · exact Host.Outcome.next.inj hrun ▸ h.of_buffer_eq (raise_buffer ..)

@[simp] theorem seek_buffer (c : Cfg) (b : Byte) (s : State) : (seek c b s).buffer = s.buffer := by
  unfold seek
  split <;> rfl

@[simp] theorem overflow_buffer (c : Cfg) (b : Byte) (s : State) : (overflow c b s).buffer = s.buffer := by
  rw [overflow_eq]
  split <;> rfl

/-- The assembler runs only frames that fit `Scratch` (R37). -/
theorem ingest_keeps_holes {b : Byte} (h : HolesEmpty s)
    (hrun : ingest Cfg.device (dispatch Cfg.device) b s = .next t) : HolesEmpty t := by
  rcases ingest_cases hrun with ⟨-, rfl⟩ | ⟨-, -, rfl⟩ | ⟨-, hroom, ⟨-, hrun⟩ | ⟨-, rfl⟩⟩
  · exact h.of_buffer_eq (seek_buffer ..)
  · exact h.of_buffer_eq (overflow_buffer ..)
  · have hfit : (partialFrame s ++ [b]).length ≤ 256 := by
      rw [List.length_append, partialFrame_length, List.length_singleton]
      exact hroom
    exact dispatch_keeps_holes (h.of_buffer_eq (t := releaseFrame (stored b s)) rfl) hfit hrun
  · exact h.of_buffer_eq rfl

end SlotHoles

/-- Settles O31, by the kind of the input taken: a reset zeroes the buffer, and a byte runs at most one frame. -/
theorem stepKeepsSlotHolesEmpty : Obligations.StepKeepsSlotHolesEmpty := by
  intro s t h hstep
  rw [step_eq_takeInput_dispatch] at hstep
  match hrx : s.rx with
  | [] =>
    rw [takeInput_empty hrx] at hstep
    exact Host.Outcome.next.inj hstep ▸ h
  | .reset :: rest =>
    rw [takeInput_reset hrx] at hstep
    exact Host.Outcome.next.inj hstep ▸ holesEmpty_of_zeros (applyReset_buffer _)
  | .byte b :: rest =>
    rw [takeInput_byte hrx] at hstep
    exact ingest_keeps_holes (h.of_buffer_eq (t := { s with rx := rest }) rfl) hstep

section Flush
/-! Bytes that are no header: outside a frame they are ignored, and inside one each of them brings its end nearer (R271). -/

variable {c : Cfg} {F : List Byte} {s t : State} {b : Byte} {rest : List Input}

theorem dispatch_keeps_inputSide (h : dispatch c F s = .next t) : InputSideKept s t := by
  rcases dispatch_cases c F s with ⟨-, heq⟩ | ⟨-, heq⟩ | ⟨-, heq⟩ | heq <;> rw [heq] at h
  · exact startHandler_keeps_inputSide h
  · exact dataHandler_keeps_inputSide h
  · exact endHandler_keeps_inputSide h
  · exact Host.Outcome.next.inj h ▸ .raise ⟨rfl, rfl, rfl, rfl⟩ c _ _

/-- After a byte that is no header the assembler is outside a frame, or the frame it was in is one byte longer. -/
theorem takeInput_noise_progress (hrx : s.rx = .byte b :: rest) (hb : b ≠ c.header)
    (h : takeInput c (dispatch c) s = .next t) :
    t.rx = rest ∧ (t.asmState = .seekingHeader ∨ s.asmState = .accumulating ∧ t.frameLen = s.frameLen + 1) := by
  rw [takeInput_byte hrx] at h
  rcases ingest_cases h with ⟨ha, rfl⟩ | ⟨-, -, rfl⟩ | ⟨ha, -, ⟨-, hrun⟩ | ⟨-, rfl⟩⟩
  · rw [seek_noise hb]
    exact ⟨rfl, .inl ha⟩
  · rw [overflow_eq, if_neg fun hre => hb hre.2]
    exact ⟨rfl, .inl rfl⟩
  · have hkept := dispatch_keeps_inputSide hrun
    exact ⟨hkept.rx, .inl hkept.asmState⟩
  · exact ⟨rfl, .inr ⟨ha, rfl⟩⟩

/-- Header-free bytes that would take a partial frame past `MAX_FRAME` end it, by completion or by overflow (R134, R135). -/
theorem runSteps_flush {bytes : List Byte} (hinv : Inv Cfg.device s) (hrx : s.rx = inputs bytes ++ rest)
    (hnoise : ∀ b ∈ bytes, b ≠ Cfg.device.header)
    (hend : s.asmState = .seekingHeader ∨ Cfg.device.maxFrame < s.frameLen + bytes.length) :
    ∃ t, runSteps bytes.length s = .next t ∧ t.asmState = .seekingHeader ∧ t.rx = rest := by
  induction bytes generalizing s with
  | nil => exact ⟨s, rfl, hend.resolve_right (Nat.not_lt.mpr hinv.assembler.fits), hrx⟩
  | cons b bytes ih =>
    obtain ⟨hb, hbytes⟩ := List.forall_mem_cons.mp hnoise
    obtain ⟨u, hu⟩ := blockNeverStops s hinv
    obtain ⟨hrest, hprogress⟩ := takeInput_noise_progress hrx hb (step_eq_takeInput_dispatch s ▸ hu)
    rw [List.length_cons, runSteps_next hu]
    refine ih (stepKeepsInvariant s u hinv hu) hrest hbytes (hprogress.imp_right fun ⟨ha, hlen⟩ => ?_)
    have hlong := hend.resolve_left fun hidle => nomatch ha.symm.trans hidle
    rw [List.length_cons] at hlong
    omega

end Flush

/-- Settles O24: a partial frame holds its header at least, so that 256 more bytes do not fit `Scratch`. -/
theorem flushResynchronises : Obligations.FlushResynchronises := by
  intro bytes s rest hinv hlen hnoise
  have hend : s.asmState = .seekingHeader ∨ Cfg.device.maxFrame < s.frameLen + bytes.length := by
    rw [hinv.assembler.idle_iff, hlen, show Cfg.device.maxFrame = 256 from rfl]
    omega
  exact hlen ▸ runSteps_flush (hinv.setRx _) rfl hnoise hend

section Retransmission
/-! A packet written over another one's place (R176, R273). -/

/-- Of two writes to one place, the second a longer one or as long, the second alone is read. -/
theorem read_writeBytes_overwrite (m : Memory) (addr a : Nat) {v w : List Byte} (h : v.length ≤ w.length) :
    ((m.writeBytes addr v).writeBytes addr w).read a = (m.writeBytes addr w).read a := by
  by_cases hin : addr ≤ a ∧ a < addr + w.length
  · rw [read_writeBytes, if_pos hin, read_writeBytes, if_pos hin]
  · rw [read_writeBytes_outside hin, read_writeBytes_outside hin, read_writeBytes_outside (by omega)]

/-- A FILE_DATA inside the buffer of an active session writes its payload and keeps the session, whatever its checksum
(R171, R175). -/
theorem exec_fileData_leaves {seq : Half} {data : List Byte} {cs : Byte} {s t : State} (ha : s.active = true)
    (hlen : data.length ≤ 255) (hseq : 1 ≤ seq.toNat) (hfit : (seq.toNat - 1) * 256 + data.length ≤ 10240)
    (hexec : exec (.fileData seq data cs) s = .next t) :
    t.active = true ∧ t.buffer = s.buffer.writeBytes ((seq.toNat - 1) * 256) data := by
  rw [exec_fileData_inBounds cs ha hlen hseq hfit] at hexec
  obtain rfl := Host.Outcome.next.inj hexec
  split
  · exact ⟨ha, rfl⟩
  · exact ⟨(raise_active ..).trans ha, raise_buffer ..⟩

end Retransmission

/-- Settles O45: the corrupted packet leaves the session open, and the correct one covers all that it wrote. -/
theorem retransmissionRepairsSlot : Obligations.RetransmissionRepairsSlot := by
  intro seq bad data cs cs' s s₁ s₂ t ha hsame hlen hseq hfit hbad hretry hdirect a
  obtain ⟨ha₁, hbuf₁⟩ := exec_fileData_leaves ha (hsame ▸ hlen) hseq (hsame ▸ hfit) hbad
  obtain ⟨-, hbuf₂⟩ := exec_fileData_leaves ha₁ hlen hseq hfit hretry
  obtain ⟨-, hbuf⟩ := exec_fileData_leaves ha hlen hseq hfit hdirect
  rw [hbuf₂, hbuf₁, hbuf]
  exact read_writeBytes_overwrite s.buffer _ a hsame.le

/-- Settles O57, field by field; an empty memory reads as zero everywhere. -/
theorem resetStateValues : Obligations.ResetStateValues :=
  ⟨rfl, rfl, rfl, read_nil, rfl, rfl, rfl, rfl, read_nil⟩

/-- Settles O58: of the state it is applied in, a reset reads only the environment's two fields, and keeps them. -/
theorem resetReplacesState : Obligations.ResetReplacesState :=
  fun _ _ => ⟨takeInput_reset, rfl⟩

end Sys2Proof.Machine
